-- ==== Sys2Proof/Word.lean ====
section
/-! DEFINITION. The bit-vector types of the core (spec/00_scope.md Table P1, R10) and the one test
of a scale that both well-formedness and the decoder use. -/

namespace Sys2Proof

/-- One captured byte, format B (R72). -/
abbrev Byte := BitVec 8

/-- One Word, format W (R71). -/
abbrev Word := BitVec 16

/-- The raw magnitude of a Word, bits 11:0 (R71). -/
abbrev Mag := BitVec 12

/-- The tag nibble of a Word, bits 15:12 (R71). -/
abbrev Tag := BitVec 4

/-- A binary64 pattern: bit 63 sign, bits 62:52 exponent, bits 51:0 fraction (R31). -/
abbrev F64 := BitVec 64

/-- Neither an infinity nor a NaN: bits 62:52 are not all ones (R31, R147). -/
def scaleFinite (isf : F64) : Bool := isf.extractLsb' 52 11 != 0x7FF#11

end Sys2Proof
end

