-- ==== Sys2Proof/Syntax.lean ====
section
/-! DEFINITION. The instructions: one constructor per row of spec/opcode_table.json, with the
channel names and TypeDescriptors they speak of, and the items an instruction is read from. -/

namespace Sys2Proof

/-- The four channels (R2, Table P1). `CFG[n]` has register number n − 1 (R28). -/
inductive Channel where
  | ch1 | ch2 | ch3 | ch4
  deriving DecidableEq, Repr

/-- The closed set of five TypeDescriptors (R76). -/
inductive TypeDescriptor where
  | unsigned16 | signed16 | unsigned32 | signed32 | unsigned16Offset
  deriving DecidableEq, Repr

/-- The instructions of the core, by format (R84). -/
inductive Instr where
  -- Format C, over `cmd[2:0]` (R75). CFG carries its format K operand unjudged (R77).
  | nop
  | cfg (ch : BitVec 2) (ty : BitVec 3) (sf : BitVec 6) (isf : F64)
  | start
  | push (b : Byte)
  | endRun
  -- Format W, over the Word, one per tag value (R74); `m` is the magnitude.
  | drop0 (m : Mag)
  | drop1 (m : Mag)
  | drop2 (m : Mag)
  | route1 (m : Mag)
  | drop4 (m : Mag)
  | drop5 (m : Mag)
  | drop6 (m : Mag)
  | route2 (m : Mag)
  | drop8 (m : Mag)
  | drop9 (m : Mag)
  | dropA (m : Mag)
  | route3 (m : Mag)
  | dropC (m : Mag)
  | dropD (m : Mag)
  | route4 (m : Mag)
  | dropF (m : Mag)
  -- Format T, over `CFG[n].TYPE[2:0]` (R76); the operands are the channel and the routed Word.
  | decU16 (n : Channel) (w : Word)
  | decS16 (n : Channel) (w : Word)
  | decU32 (n : Channel) (w : Word)
  | decS32 (n : Channel) (w : Word)
  | decU16O (n : Channel) (w : Word)
  deriving DecidableEq, Repr

/-- One sample of the input ports (R75, R77, R150). -/
structure Input where
  /-- `rst`, active high (R150). -/
  rst : Bool
  /-- `cmd[2:0]`, format C. -/
  cmd : BitVec 3
  /-- `in_data[7:0]`, format B, read with PUSH only. -/
  inData : Byte
  /-- `cfg_op[74:0]`, format K, read with CFG only. -/
  cfgOp : BitVec 75
  deriving DecidableEq, Repr

/-- What a row's pattern is matched against, the table's "over" (R84). -/
inductive Item where
  /-- Format C: the input ports of one step. -/
  | command (p : Input)
  /-- Format W: a Word the assembler has formed. -/
  | word (w : Word)
  /-- Format T: the TYPE code of the channel to which a Word is routed, that channel and the Word. -/
  | typed (code : BitVec 3) (n : Channel) (w : Word)
  deriving DecidableEq, Repr

end Sys2Proof
end

