-- ==== Sys2Proof/WellFormed.lean ====
section
/-! DEFINITION. Which instructions the spec gives a meaning: all of them but a CFG whose operand
carries a reserved type code or a non-finite scale (R80, R147). -/

namespace Sys2Proof

/-- Codes 5, 6 and 7 are reserved (R76, R80). -/
def typeLegal (ty : BitVec 3) : Bool := decide (ty.toNat < 5)

def Instr.wellFormed : Instr → Bool
  | .nop | .start | .endRun => true
  | .cfg _ ty _ isf => typeLegal ty && scaleFinite isf
  | .push _ => true
  | .drop0 _ | .drop1 _ | .drop2 _ | .drop4 _ | .drop5 _ | .drop6 _ => true
  | .drop8 _ | .drop9 _ | .dropA _ | .dropC _ | .dropD _ | .dropF _ => true
  | .route1 _ | .route2 _ | .route3 _ | .route4 _ => true
  | .decU16 _ _ | .decS16 _ _ | .decU32 _ _ | .decS32 _ _ | .decU16O _ _ => true

end Sys2Proof
end

