-- ==== Sys2Proof/Decode.lean ====
section
/-! DEFINITION. The fields of the formats, the decoder of the three kinds of item, total and
rejecting by name, and after it the encoder (spec/30_encoding.md). -/

namespace Sys2Proof

/-- Why an item has no meaning (R80 (b), (c), (d)). -/
inductive Reject where
  /-- `cmd` is 5, 6 or 7 (R151). -/
  | reservedCommand (code : BitVec 3)
  /-- A TypeDescriptor code 5, 6 or 7 (R147). -/
  | reservedType (code : BitVec 3)
  /-- An infinity or a NaN as `isf` (R147). -/
  | nonFiniteScale (isf : F64)
  deriving DecidableEq, Repr

/-- The tag nibble, bits 15:12 (R71). -/
def tagOf (w : Word) : Tag := w.extractLsb' 12 4

/-- The raw magnitude, bits 11:0 (R71). -/
def magOf (w : Word) : Mag := w.extractLsb' 0 12

/-- The Word with a given tag and magnitude (R71). -/
def wordOf (t : Tag) (m : Mag) : Word := t ++ m

/-- A pair's Word: the first byte is the high byte (R52, R72). -/
def pairWord (hi lo : Byte) : Word := hi ++ lo

/-- The high byte of a Word (R72). -/
def hiByte (w : Word) : Byte := w.extractLsb' 8 8

/-- The low byte of a Word (R72). -/
def loByte (w : Word) : Byte := w.extractLsb' 0 8

/-- Format K fields (R77). -/
def cfgCh (op : BitVec 75) : BitVec 2 := op.extractLsb' 73 2
def cfgType (op : BitVec 75) : BitVec 3 := op.extractLsb' 70 3
def cfgSf (op : BitVec 75) : BitVec 6 := op.extractLsb' 64 6
def cfgIsf (op : BitVec 75) : F64 := op.extractLsb' 0 64

/-- Format K assembled: `ch ‖ type ‖ sf ‖ isf` (R77, R82). -/
def cfgOperand (ch : BitVec 2) (ty : BitVec 3) (sf : BitVec 6) (isf : F64) : BitVec 75 :=
  (ch ++ ty ++ sf ++ isf : BitVec (2 + 3 + 6 + 64))

/-- The TypeDescriptor of a code, Table E2; `none` for the reserved codes 5, 6, 7 (R76). -/
def typeOfCode (c : BitVec 3) : Option TypeDescriptor :=
  if c = 0#3 then some .unsigned16
  else if c = 1#3 then some .signed16
  else if c = 2#3 then some .unsigned32
  else if c = 3#3 then some .signed32
  else if c = 4#3 then some .unsigned16Offset
  else none

/-- The code of a TypeDescriptor, Table E2 (R76). -/
def codeOfType : TypeDescriptor → BitVec 3
  | .unsigned16 => 0#3
  | .signed16 => 1#3
  | .unsigned32 => 2#3
  | .signed32 => 3#3
  | .unsigned16Offset => 4#3

/-- The channel of a register number: number = channel − 1 (R28, R60). -/
def channelOfNumber (ch : BitVec 2) : Channel :=
  if ch = 0#2 then .ch1 else if ch = 1#2 then .ch2 else if ch = 2#2 then .ch3 else .ch4

/-- The register number of a channel (R28). -/
def numberOfChannel : Channel → BitVec 2
  | .ch1 => 0#2
  | .ch2 => 1#2
  | .ch3 => 2#2
  | .ch4 => 3#2

/-- The operand of CFG, or why it is refused: the type code is judged first (R147). -/
def decodeCfg (op : BitVec 75) : Except Reject Instr :=
  if !typeLegal (cfgType op) then .error (.reservedType (cfgType op))
  else if !scaleFinite (cfgIsf op) then .error (.nonFiniteScale (cfgIsf op))
  else .ok (.cfg (cfgCh op) (cfgType op) (cfgSf op) (cfgIsf op))

/-- Format C (R75). `rst` is no part of a command (R150). -/
def decodeCommand (p : Input) : Except Reject Instr :=
  if p.cmd = 0#3 then .ok .nop
  else if p.cmd = 1#3 then decodeCfg p.cfgOp
  else if p.cmd = 2#3 then .ok .start
  else if p.cmd = 3#3 then .ok (.push p.inData)
  else if p.cmd = 4#3 then .ok .endRun
  else .error (.reservedCommand p.cmd)

/-- Format W: every Word has a meaning, by its tag alone (R74, Table E1). -/
def decodeWord (w : Word) : Instr :=
  let t := tagOf w
  let m := magOf w
  if t = 0x0#4 then .drop0 m
  else if t = 0x1#4 then .drop1 m
  else if t = 0x2#4 then .drop2 m
  else if t = 0x3#4 then .route1 m
  else if t = 0x4#4 then .drop4 m
  else if t = 0x5#4 then .drop5 m
  else if t = 0x6#4 then .drop6 m
  else if t = 0x7#4 then .route2 m
  else if t = 0x8#4 then .drop8 m
  else if t = 0x9#4 then .drop9 m
  else if t = 0xA#4 then .dropA m
  else if t = 0xB#4 then .route3 m
  else if t = 0xC#4 then .dropC m
  else if t = 0xD#4 then .dropD m
  else if t = 0xE#4 then .route4 m
  else .dropF m

/-- The decode operation a TypeDescriptor selects, Table E2 (R76). -/
def decodeOperation (ty : TypeDescriptor) (n : Channel) (w : Word) : Instr :=
  match ty with
  | .unsigned16 => .decU16 n w
  | .signed16 => .decS16 n w
  | .unsigned32 => .decU32 n w
  | .signed32 => .decS32 n w
  | .unsigned16Offset => .decU16O n w

/-- Format T (R76). -/
def decodeTyped (code : BitVec 3) (n : Channel) (w : Word) : Except Reject Instr :=
  match typeOfCode code with
  | some ty => .ok (decodeOperation ty n w)
  | none => .error (.reservedType code)

/-- The instruction an item stands for, or why it has none (R84). -/
def decode : Item → Except Reject Instr
  | .command p => decodeCommand p
  | .word w => .ok (decodeWord w)
  | .typed code n w => decodeTyped code n w

/-- The input ports of a command; a data port the command does not read is 0 (R75). -/
def commandInput (cmd : BitVec 3) (inData : Byte) (cfgOp : BitVec 75) : Input :=
  { rst := false, cmd := cmd, inData := inData, cfgOp := cfgOp }

/-- The item that stands for an instruction (R74, R75, R76, R77). -/
def encode : Instr → Item
  | .nop => .command (commandInput 0#3 0#8 0#75)
  | .cfg ch ty sf isf => .command (commandInput 1#3 0#8 (cfgOperand ch ty sf isf))
  | .start => .command (commandInput 2#3 0#8 0#75)
  | .push b => .command (commandInput 3#3 b 0#75)
  | .endRun => .command (commandInput 4#3 0#8 0#75)
  | .drop0 m => .word (wordOf 0x0#4 m)
  | .drop1 m => .word (wordOf 0x1#4 m)
  | .drop2 m => .word (wordOf 0x2#4 m)
  | .route1 m => .word (wordOf 0x3#4 m)
  | .drop4 m => .word (wordOf 0x4#4 m)
  | .drop5 m => .word (wordOf 0x5#4 m)
  | .drop6 m => .word (wordOf 0x6#4 m)
  | .route2 m => .word (wordOf 0x7#4 m)
  | .drop8 m => .word (wordOf 0x8#4 m)
  | .drop9 m => .word (wordOf 0x9#4 m)
  | .dropA m => .word (wordOf 0xA#4 m)
  | .route3 m => .word (wordOf 0xB#4 m)
  | .dropC m => .word (wordOf 0xC#4 m)
  | .dropD m => .word (wordOf 0xD#4 m)
  | .route4 m => .word (wordOf 0xE#4 m)
  | .dropF m => .word (wordOf 0xF#4 m)
  | .decU16 n w => .typed 0#3 n w
  | .decS16 n w => .typed 1#3 n w
  | .decU32 n w => .typed 2#3 n w
  | .decS32 n w => .typed 3#3 n w
  | .decU16O n w => .typed 4#3 n w

/-- The input ports of a table word of format C: `cmd` is its bits 2:0 and every data port is 0
(log 10). -/
def tableInput (w : Nat) : Input := commandInput (BitVec.ofNat 3 w) 0#8 0#75

/-- The instruction read from a table word (log 10): a row of at most 8 bits is a command code
(format C), a longer one a Word (format W). A row of format T has the width and the values of a
command code and cannot be told from it by its bits; it is read as the command. -/
def decodeTableWord (nbits w : Nat) : Option Instr :=
  if nbits ≤ 8 then (decodeCommand (tableInput w)).toOption
  else some (decodeWord (BitVec.ofNat 16 w))

end Sys2Proof
end

