-- ==== Sys2Proof/Machine/State.lean ====
section
/-! DEFINITION. The state of the core as plain data (spec/10_state.md Table S1), the reasons a step
can stop, and the state after reset (Table S2). -/

namespace Sys2Proof.Machine

/-- One thing for each of the four channels. -/
structure PerChannel (α : Type) where
  c1 : α
  c2 : α
  c3 : α
  c4 : α
  deriving DecidableEq, Repr

/-- A ChannelConfig, the contents of one configuration register (R28 to R31). -/
structure ChannelConfig where
  /-- `TYPE`, one of the five legal codes (R29; log 18). -/
  ty : TypeDescriptor
  /-- `SF`, the scalefactor, unsigned (R30). -/
  sf : BitVec 6
  /-- `ISF`, the intScaleFactor (R31). -/
  isf : F64
  deriving DecidableEq, Repr

/-- One output record (R37). `ω` is the Word as routed: a 16-bit Word in the hardware, a Word text
at the text level. -/
inductive Record (ω : Type) where
  /-- `Val(w, f)`: the Word and its DecodedValue. -/
  | val (w : ω) (f : F64)
  /-- `Err(w, cause)`: the Word and the cause code of its exception (R166). -/
  | err (w : ω) (cause : Byte)
  deriving DecidableEq, Repr

/-- Format O, the output port in a step that presents a record (R78). -/
structure Beat where
  /-- `out_valid[3:0]`, one-hot. -/
  outValid : BitVec 4
  /-- `out_word[15:0]`, the Word as routed. -/
  outWord : Word
  /-- `out_err`. -/
  outErr : BitVec 1
  /-- `out_data[63:0]`, the DecodedValue or the cause code. -/
  outData : BitVec 64
  deriving DecidableEq, Repr

/-- The state. The upper-case fields are Table S1's, under its names (R20); `input` and `beat` are
the model's own (logs 1 and 3). -/
structure State where
  /-- A run is in progress (R26). -/
  RUN : Bool
  /-- `HOLD` holds the high byte of a Word (R25). -/
  HAVE : Bool
  /-- The first byte of a pair (R22). -/
  HOLD : Byte
  /-- The four configuration registers (R28). -/
  CFG : PerChannel ChannelConfig
  /-- Ghost: the bytes accepted since the last START (R35). -/
  BUF : List Byte
  /-- Ghost: the Words formed since the last START (R35). -/
  WORDS : List Word
  /-- Ghost: the Words routed to each channel since the last START (R36). -/
  CHW : PerChannel (List Word)
  /-- Ghost: the Words dropped since the last START (R36). -/
  DROPPED : List Word
  /-- The records presented for each channel since the last START (R37). -/
  OUT : PerChannel (List (Record Word))
  /-- The port samples the host will present, one per step (log 1). -/
  input : List Input
  /-- The output port during the last step; no step reads it (R38, log 3). -/
  beat : Option Beat
  deriving DecidableEq, Repr

/-- The core has no fault: every command is defined in every state, and its one exception, ParseError,
is an output record and not a stop (R145, R167, R172). No constructor, raised by nobody: safe (log 15). -/
inductive Fault where
  deriving DecidableEq, Repr

/-- Inputs outside the domain on which the spec makes claims (R80, R147, R151). -/
inductive Refusal where
  /-- An instruction without a meaning yet, raised by an arm of `exec`: safe. No arm raises it. -/
  | notModelled (mnemonic : String)
  /-- `cmd` is 5, 6 or 7 (R151), raised by the decoder in `step`: safe. -/
  | reservedCommand (code : BitVec 3)
  /-- A CFG whose `type` is 5, 6 or 7 (R147), raised by the decoder in `step` and by CFG: safe. -/
  | reservedType (code : BitVec 3)
  /-- A CFG whose `isf` is an infinity or a NaN (R147), raised by the decoder in `step` and by CFG: safe. -/
  | nonFiniteScale (isf : F64)
  deriving DecidableEq, Repr

/-- The answer of a step of this machine. -/
abbrev Result := Host.Outcome State Fault Refusal

/-- A configuration register after power-up and reset: the spec leaves it "unspecified legal"; the
model names UNSIGNED_16, scalefactor 0, scale +0.0 (R41, U6). DESIGN CHOICE, unsafe (log 5). -/
def ChannelConfig.reset : ChannelConfig :=
  { ty := .unsigned16, sf := 0#6, isf := 0#64 }

/-- The same thing for every channel. -/
def PerChannel.all {α : Type} (a : α) : PerChannel α :=
  { c1 := a, c2 := a, c3 := a, c4 := a }

/-- The state right after reset (Table S2). `HOLD` is "unspecified" there: DESIGN CHOICE 0 (log 4). -/
def State.reset : State :=
  { RUN := false
    HAVE := false
    HOLD := 0#8
    CFG := PerChannel.all ChannelConfig.reset
    BUF := []
    WORDS := []
    CHW := PerChannel.all []
    DROPPED := []
    OUT := PerChannel.all []
    input := []
    beat := none }

end Sys2Proof.Machine
end

