-- ==== Sys2Proof/Machine/Ops.lean ====
section
/-! DEFINITION. The named operations over the state: per-channel storage, the histories, the output
port, raising ParseError, the reset input, and fetching the input of a step. -/

namespace Sys2Proof.Machine

/-! ## Per-channel storage -/

def PerChannel.get {α : Type} (p : PerChannel α) : Channel → α
  | .ch1 => p.c1
  | .ch2 => p.c2
  | .ch3 => p.c3
  | .ch4 => p.c4

def PerChannel.set {α : Type} (p : PerChannel α) (n : Channel) (a : α) : PerChannel α :=
  match n with
  | .ch1 => { p with c1 := a }
  | .ch2 => { p with c2 := a }
  | .ch3 => { p with c3 := a }
  | .ch4 => { p with c4 := a }

/-- `append(S[n], v)` (R10). -/
def PerChannel.push {α : Type} (p : PerChannel (List α)) (n : Channel) (a : α) :
    PerChannel (List α) :=
  p.set n (p.get n ++ [a])

/-! ## Derived quantities -/

/-- `IDX[n] = |OUT[n]|` (R39). -/
def State.idx (s : State) (n : Channel) : Nat := (s.OUT.get n).length

/-- `POS = |BUF|` (R24). -/
def State.pos (s : State) : Nat := s.BUF.length

/-! ## Writes -/

/-- `out_valid = 0b0000`: no beat in this step (R38). -/
def State.noBeat (s : State) : State := { s with beat := none }

/-- `CFG[n]` written whole (R32, R147). -/
def State.setCfg (s : State) (n : Channel) (c : ChannelConfig) : State :=
  { s with CFG := s.CFG.set n c }

/-- `HOLD <- b ; HAVE <- 1 ; append(BUF, b)` (R92). -/
def State.latch (s : State) (b : Byte) : State :=
  { s with HOLD := b, HAVE := true, BUF := s.BUF ++ [b] }

/-- `HAVE <- 0 ; append(BUF, b) ; append(WORDS, w)` (R93). -/
def State.formWord (s : State) (b : Byte) (w : Word) : State :=
  { s with HAVE := false, BUF := s.BUF ++ [b], WORDS := s.WORDS ++ [w] }

/-- `append(CHW[n], w)` (R102). -/
def State.routed (s : State) (n : Channel) (w : Word) : State :=
  { s with CHW := s.CHW.push n w }

/-- `append(DROPPED, w)` (R106). -/
def State.dropped (s : State) (w : Word) : State :=
  { s with DROPPED := s.DROPPED ++ [w] }

/-- Every history emptied, as START and reset do (R148, R150). -/
def State.clearHistories (s : State) : State :=
  { s with
    BUF := []
    WORDS := []
    CHW := PerChannel.all []
    DROPPED := []
    OUT := PerChannel.all [] }

/-! ## The output port -/

/-- The cause code of ParseError, Table X1 (R165). -/
def parseErrorCause : Byte := 1#8

/-- The Word of a record. -/
def Record.word {ω : Type} : Record ω → ω
  | .val w _ => w
  | .err w _ => w

/-- A value record, not an error record. -/
def Record.isVal {ω : Type} : Record ω → Bool
  | .val _ _ => true
  | .err _ _ => false

/-- The one-hot channel mark of `out_valid`: bit n − 1 for channel n (R78). -/
def channelMark : Channel → BitVec 4
  | .ch1 => 0b0001#4
  | .ch2 => 0b0010#4
  | .ch3 => 0b0100#4
  | .ch4 => 0b1000#4

/-- Format O of a record (R78, R166). -/
def beatOf (n : Channel) : Record Word → Beat
  | .val w f => { outValid := channelMark n, outWord := w, outErr := 0#1, outData := f }
  | .err w cause =>
    { outValid := channelMark n, outWord := w, outErr := 1#1, outData := cause.setWidth 64 }

/-- `emit(n, rec)`: one beat for channel n, appended to `OUT[n]` (R10, R115). -/
def emit (n : Channel) (r : Record Word) (s : State) : State :=
  { s with OUT := s.OUT.push n r, beat := some (beatOf n r) }

/-! ## The exception -/

/-- Raising ParseError for a Word of channel n: the `Err` record takes the place of the Word's
value, and nothing else happens: no register is saved, no mode changes, control goes nowhere
(R166, R167, R175). No instruction of the binary hardware raises it (R130, R168); the text level does
(Machine/Text.lean). There is no return from it (R176). -/
def raiseParseError (n : Channel) (w : Word) (s : State) : State :=
  emit n (.err w parseErrorCause) s

/-! ## The reset input -/

/-- One step with `rst = 1`: idle, no byte held, histories empty, no beat; `HOLD` and `CFG` kept
(R150, R190). -/
def applyReset (s : State) : State :=
  { s.clearHistories with RUN := false, HAVE := false, beat := none }

/-! ## The input of a step -/

/-- The ports while the host presents nothing: `cmd = 0`, NOP (log 2). -/
def idleInput : Input := commandInput 0#3 0#8 0#75

/-- The port sample of this step, and the state in which the step's command runs, the sample taken
off the list (log 1). -/
def fetch (s : State) : Input × State :=
  match s.input with
  | [] => (idleInput, s)
  | p :: rest => (p, { s with input := rest })

/-- The refusal under which an item without a meaning stops the machine. -/
def refusalOf : Reject → Refusal
  | .reservedCommand code => .reservedCommand code
  | .reservedType code => .reservedType code
  | .nonFiniteScale isf => .nonFiniteScale isf

/-! ## Placing an instruction for the next step -/

/-- A command at the head of the input list. -/
def placeCommand (p : Input) (s : State) : State := { s with input := p :: s.input }

/-- A Word about to be formed: in a run, its high byte held, the PUSH of its low byte at the head of
the input list (R93; log 11). -/
def placeWord (w : Word) (s : State) : State :=
  { s with
    RUN := true
    HAVE := true
    HOLD := hiByte w
    input := commandInput 3#3 (loByte w) 0#75 :: s.input }

end Sys2Proof.Machine
end

