-- ==== Sys2Proof/Machine/Flags.lean ====
section
/-! DEFINITION. The two flags of the core, RUN and HAVE (R25, R26), and the conditions the
instruction rules test. There is no other flag (R27). -/

namespace Sys2Proof.Machine

/-- START from idle sets RUN and clears HAVE (R148). -/
def State.openRun (s : State) : State := { s with RUN := true, HAVE := false }

/-- END during a run clears RUN and HAVE, discarding a held byte (R149). -/
def State.closeRun (s : State) : State := { s with RUN := false, HAVE := false }

/-- The condition of the Word operations: a Word exists only in a run (R102, R94; log 9). The Word is
the operation's operand; that the assembler has just formed it is not tested: DESIGN CHOICE (log 22). -/
def State.wordTaken (s : State) : Bool := s.RUN

/-- The condition of a decode operation: in a run, and the channel's TYPE selects the operation (R131
to R135; log 9). That the Word was routed to the channel, so that its tag is the channel's, is not
tested: DESIGN CHOICE (log 22). -/
def State.selects (s : State) (n : Channel) (ty : TypeDescriptor) : Bool :=
  s.RUN && decide ((s.CFG.get n).ty = ty)

end Sys2Proof.Machine
end

