-- ==== Sys2Proof/Config.lean ====
section
/-! DEFINITION. Which hardware this is, and what the spec leaves open and the model leaves open with
it: one uninterpreted constant. The parameters the spec fixes (Table P1, Table F1) stand where they are
used. -/

namespace Sys2Proof

/-- The identity a model records (R3). -/
structure Identity where
  name : String
  origin : String
  sourceDocument : String
  sourceKind : String
  /-- `none`: not stated. -/
  revision : Option String
  options : List String
  channels : Nat
  wordWidth : Nat
  deriving DecidableEq, Repr

/-- The identity of the hardware, as R3 gives it. -/
def Config.identity : Identity :=
  { name := "Beagle decode core"
    origin := "katharinaalefs/Beagle (GitHub repository)"
    sourceDocument := "the source"
    sourceKind := "repo_spec"
    revision := none
    options := []
    channels := 4
    wordWidth := 16 }

/-- The product of two binary64 numbers of which one is an infinity or a NaN. R125 defines the
product for finite operands only, and no CFG can store a non-finite scale (R31, R147), so the spec
gives no value here. FREE VALUE (log 8): no proof can see it. -/
opaque Config.nonFiniteProduct : F64 → F64 → F64

end Sys2Proof
end

