-- ==== Sys2Proof/Machine/Float.lean ====
section
/-! DEFINITION. The binary64 arithmetic of decode step 7: the exact conversion of an integer and one
multiply rounded once, ties to even (R125; spec/93 G1 to G3; log 16). -/

namespace Sys2Proof.Machine

/-! ## The fields of a pattern (R31) -/

def F64.sign (x : F64) : Bool := x.getLsbD 63
def F64.expField (x : F64) : Nat := (x.extractLsb' 52 11).toNat
def F64.fracField (x : F64) : Nat := (x.extractLsb' 0 52).toNat

/-- The significand as an integer: the fraction, with the hidden bit unless subnormal. -/
def F64.significand (x : F64) : Nat :=
  if F64.expField x = 0 then F64.fracField x else 2 ^ 52 + F64.fracField x

/-- The weight of one unit of the significand is `2 ^ quantum`; subnormals share the least one. -/
def F64.quantum (x : F64) : Int := (max (F64.expField x) 1 : Nat) - 1075

/-! ## Rounding -/

/-- `m / 2^k` rounded to the nearest integer, ties to even. -/
def roundShift (m k : Nat) : Nat :=
  let quot := m / 2 ^ k
  let rest := m % 2 ^ k
  if 2 ^ k < 2 * rest ∨ (2 * rest = 2 ^ k ∧ quot % 2 = 1) then quot + 1 else quot

/-- The quantum of the result of rounding `m · 2^e`: 53 significant bits, but never below the
subnormals' (gradual underflow). -/
def resultQuantum (m : Nat) (e : Int) : Int := max (e + Nat.log2 m - 52) (-1074)

/-- `m · 2^e` in units of `2^q`, rounded. -/
def roundTo (m : Nat) (e q : Int) : Nat :=
  if q ≤ e then m * 2 ^ (e - q).toNat else roundShift m (q - e).toNat

/-- The pattern of an infinity, without its sign. -/
def infinityBits : Nat := 0x7FF * 2 ^ 52

/-- Exponent and fraction of `sig · 2^q` for a significand of at most `2^53`, `q ≥ −1074`. The hidden
bit, and a carry out of rounding, add into the exponent; past the largest finite number the answer
is the infinity. -/
def packMagnitude (sig : Nat) (q : Int) : Nat :=
  min ((q + 1074).toNat * 2 ^ 52 + sig) infinityBits

/-- The binary64 number nearest to `± m · 2^e`, ties to even; zero keeps its sign (R125). -/
def roundF64 (neg : Bool) (m : Nat) (e : Int) : F64 :=
  let q := resultQuantum m e
  let body := if m = 0 then 0 else packMagnitude (roundTo m e q) q
  BitVec.ofNat 64 ((if neg then 2 ^ 63 else 0) + body)

/-! ## The two operations of step 7 -/

/-- `f64(i)`, exact for `|i| ≤ 2^53`; `f64(0)` is +0 (R10, R125). -/
def f64OfInt (i : Int) : F64 := roundF64 (decide (i < 0)) i.natAbs 0

/-- `a ×f b`: the exact product rounded once (R125). For a non-finite operand, which the spec rules
out, the free value. -/
def fmul (a b : F64) : F64 :=
  if scaleFinite a && scaleFinite b then
    roundF64 (F64.sign a ^^ F64.sign b) (F64.significand a * F64.significand b)
      (F64.quantum a + F64.quantum b)
  else Config.nonFiniteProduct a b

end Sys2Proof.Machine
end

