-- ==== Sys2Proof/Machine/Operands.lean ====
section
/-! DEFINITION. What the decode makes of a Word and a configuration: the constants of the
TypeDescriptors and the seven steps (spec/42_decoder.md). Integers are unbounded: no step wraps,
saturates or narrows (R127). -/

namespace Sys2Proof.Machine

/-- Table F1, shiftConstant (R117; C2). -/
def shiftConstant : TypeDescriptor → Nat
  | .unsigned16 => 0
  | .signed16 => 0
  | .unsigned32 => 16
  | .signed32 => 16
  | .unsigned16Offset => 0

/-- Table F1, offsetConstant (R117; C1: 6554 is decimal, D11). -/
def offsetConstant : TypeDescriptor → Int
  | .unsigned16 => 0
  | .signed16 => 0x8000
  | .unsigned32 => 0
  | .signed32 => 0x80000000
  | .unsigned16Offset => 6554

/-- Steps 1 and 2: the magnitude as an unsigned integer (R118). -/
def stepV (w : Word) : Nat := (magOf w).toNat

/-- Step 3: `V1 = V << 4` (R119). -/
def stepV1 (v : Nat) : Nat := v * 2 ^ 4

/-- Step 4: `V2 = V1 << shiftConstant` (R120). -/
def stepV2 (v1 : Nat) (ty : TypeDescriptor) : Nat := v1 * 2 ^ shiftConstant ty

/-- Step 5: `V3 = V2 − offsetConstant`, signed (R121). -/
def stepV3 (v2 : Nat) (ty : TypeDescriptor) : Int := (v2 : Int) - offsetConstant ty

/-- `x >> k`, the arithmetic shift on an unbounded integer: Lean's integer division rounds toward
minus infinity for a positive divisor (R10, R124; D13). -/
def shr (x : Int) (k : Nat) : Int := x / 2 ^ k

/-- Step 6: `V4 = V3 >> SF` (R122). -/
def stepV4 (v3 : Int) (sf : BitVec 6) : Int := shr v3 sf.toNat

/-- Step 7: `value = f64(V4) ×f ISF` (R123). -/
def stepValue (v4 : Int) (isf : F64) : F64 := fmul (f64OfInt v4) isf

/-- Steps 3 to 5 from a magnitude. -/
def codeV3 (v : Nat) (ty : TypeDescriptor) : Int := stepV3 (stepV2 (stepV1 v) ty) ty

/-- Steps 3 to 7 from a magnitude. -/
def decodeMagnitude (v : Nat) (ty : TypeDescriptor) (sf : BitVec 6) (isf : F64) : F64 :=
  stepValue (stepV4 (codeV3 v ty) sf) isf

/-- `DecodeValue(w, TYPE, SF, ISF)`, pure (R115, R128). -/
def decodeValue (w : Word) (ty : TypeDescriptor) (sf : BitVec 6) (isf : F64) : F64 :=
  decodeMagnitude (stepV w) ty sf isf

end Sys2Proof.Machine
end

