-- ==== Sys2Proof/Machine/Decoder.lean ====
section
/-! DEFINITION. The FixedPointDecoder: the five decode operations and the stage that selects one by
the channel's TYPE (spec/42_decoder.md). -/

namespace Sys2Proof.Machine

/-- A decode operation: where it is selected, one `Val` record for channel n, valued by the
operation's TypeDescriptor under the channel's SF and ISF (R115, R131 to R135). Outside a run, or for
a channel of another TYPE, the operation does not take place and presents no beat (log 9). A Word whose
tag is not the channel's is decoded like any other: DESIGN CHOICE (log 22). -/
def decodeAs (ty : TypeDescriptor) (n : Channel) (w : Word) (s : State) : Result :=
  if s.selects n ty then
    .next (emit n (.val w (decodeValue w ty (s.CFG.get n).sf (s.CFG.get n).isf)) s)
  else .next s.noBeat

/-- DEC.U16 (R131). -/
def execDecU16 (n : Channel) (w : Word) (s : State) : Result := decodeAs .unsigned16 n w s

/-- DEC.S16 (R132). -/
def execDecS16 (n : Channel) (w : Word) (s : State) : Result := decodeAs .signed16 n w s

/-- DEC.U32 (R133). -/
def execDecU32 (n : Channel) (w : Word) (s : State) : Result := decodeAs .unsigned32 n w s

/-- DEC.S32 (R134). -/
def execDecS32 (n : Channel) (w : Word) (s : State) : Result := decodeAs .signed32 n w s

/-- DEC.U16O (R135). -/
def execDecU16O (n : Channel) (w : Word) (s : State) : Result := decodeAs .unsigned16Offset n w s

/-- `Decode(n, w)`: the operation that `CFG[n].TYPE` selects, in the same step (R115, Table E2). -/
def decodeStage (n : Channel) (w : Word) (s : State) : Result :=
  match (s.CFG.get n).ty with
  | .unsigned16 => execDecU16 n w s
  | .signed16 => execDecS16 n w s
  | .unsigned32 => execDecU32 n w s
  | .signed32 => execDecS32 n w s
  | .unsigned16Offset => execDecU16O n w s

end Sys2Proof.Machine
end

