-- ==== Sys2Proof/Machine/Demux.lean ====
section
/-! DEFINITION. The ChannelDemultiplexer: the sixteen Word operations and the dispatch by tag
(spec/41_demux.md). -/

namespace Sys2Proof.Machine

/-- ROUTEn: the Word, tag retained, to `CHW[n]`, and its decode in the same step (R102 to R105,
R109). Outside a run no Word exists and nothing happens (R94; log 9). -/
def route (n : Channel) (w : Word) (s : State) : Result :=
  if s.wordTaken then decodeStage n w (s.routed n w) else .next s.noBeat

/-- DROP: the Word to the ghost `DROPPED`, no beat, nothing decoded (R106, R170). Outside a run no
Word exists and nothing happens (R94; log 9). -/
def drop (w : Word) (s : State) : Result :=
  if s.wordTaken then .next (s.dropped w).noBeat else .next s.noBeat

/-- ROUTE1 (R102). -/
def execRoute1 (m : Mag) (s : State) : Result := route .ch1 (wordOf 0x3#4 m) s

/-- ROUTE2 (R103). -/
def execRoute2 (m : Mag) (s : State) : Result := route .ch2 (wordOf 0x7#4 m) s

/-- ROUTE3 (R104). -/
def execRoute3 (m : Mag) (s : State) : Result := route .ch3 (wordOf 0xB#4 m) s

/-- ROUTE4 (R105). -/
def execRoute4 (m : Mag) (s : State) : Result := route .ch4 (wordOf 0xE#4 m) s

/-! DROP on each of the twelve other tags (R106). -/

def execDrop0 (m : Mag) (s : State) : Result := drop (wordOf 0x0#4 m) s
def execDrop1 (m : Mag) (s : State) : Result := drop (wordOf 0x1#4 m) s
def execDrop2 (m : Mag) (s : State) : Result := drop (wordOf 0x2#4 m) s
def execDrop4 (m : Mag) (s : State) : Result := drop (wordOf 0x4#4 m) s
def execDrop5 (m : Mag) (s : State) : Result := drop (wordOf 0x5#4 m) s
def execDrop6 (m : Mag) (s : State) : Result := drop (wordOf 0x6#4 m) s
def execDrop8 (m : Mag) (s : State) : Result := drop (wordOf 0x8#4 m) s
def execDrop9 (m : Mag) (s : State) : Result := drop (wordOf 0x9#4 m) s
def execDropA (m : Mag) (s : State) : Result := drop (wordOf 0xA#4 m) s
def execDropC (m : Mag) (s : State) : Result := drop (wordOf 0xC#4 m) s
def execDropD (m : Mag) (s : State) : Result := drop (wordOf 0xD#4 m) s
def execDropF (m : Mag) (s : State) : Result := drop (wordOf 0xF#4 m) s

/-- `Demux(w)`: only the tag is examined (R101). -/
def demux (w : Word) (s : State) : Result :=
  let t := tagOf w
  let m := magOf w
  if t = 0x3#4 then execRoute1 m s
  else if t = 0x7#4 then execRoute2 m s
  else if t = 0xB#4 then execRoute3 m s
  else if t = 0xE#4 then execRoute4 m s
  else drop w s

end Sys2Proof.Machine
end

