-- ==== Sys2Proof/Machine/Assembler.lean ====
section
/-! DEFINITION. The ByteStreamAssembler: the PUSH command (spec/40_assembler.md). -/

namespace Sys2Proof.Machine

/-- PUSH: ignored while idle (R94); at phase 0 the byte is held (R92); at phase 1 the Word
`HOLD ‖ b` is formed and handed to the demultiplexer in the same step (R93). -/
def execPush (b : Byte) (s : State) : Result :=
  if s.RUN then
    if s.HAVE then demux (pairWord s.HOLD b) (s.formWord b (pairWord s.HOLD b))
    else .next (s.latch b).noBeat
  else .next s.noBeat

end Sys2Proof.Machine
end

