-- ==== Sys2Proof/Machine/RunControl.lean ====
section
/-! DEFINITION. The commands NOP, CFG, START and END (spec/43_run_control.md). -/

namespace Sys2Proof.Machine

/-- NOP: nothing changes, no beat (R146). -/
def execNop (s : State) : Result := .next s.noBeat

/-- CFG: refused with a reserved type code or a non-finite scale, in a run as well as while idle;
else the register is written whole while idle, and nothing changes in a run (R147). -/
def execCfg (ch : BitVec 2) (ty : BitVec 3) (sf : BitVec 6) (isf : F64) (s : State) : Result :=
  match typeOfCode ty with
  | none => .refused (.reservedType ty)
  | some t =>
    if !scaleFinite isf then .refused (.nonFiniteScale isf)
    else if s.RUN then .next s.noBeat
    else .next (s.setCfg (channelOfNumber ch) { ty := t, sf := sf, isf := isf }).noBeat

/-- START: from idle, opens a run at phase 0 with empty histories; ignored in a run (R148). -/
def execStart (s : State) : Result :=
  if s.RUN then .next s.noBeat else .next s.clearHistories.openRun.noBeat

/-- END: in a run, ends it and discards a held byte, the histories kept; ignored while idle (R149). -/
def execEndRun (s : State) : Result :=
  if s.RUN then .next s.closeRun.noBeat else .next s.noBeat

end Sys2Proof.Machine
end

