-- ==== Sys2Proof/Machine/Dispatch.lean ====
section
/-! DEFINITION. One arm per instruction: each a call of its meaning. -/

namespace Sys2Proof.Machine

def exec (i : Instr) (s : State) : Host.Outcome State Fault Refusal :=
  match i with
  | .nop => Sys2Proof.Machine.execNop s
  | .cfg ch ty sf isf => Sys2Proof.Machine.execCfg ch ty sf isf s
  | .start => Sys2Proof.Machine.execStart s
  | .push b => Sys2Proof.Machine.execPush b s
  | .endRun => Sys2Proof.Machine.execEndRun s
  | .drop0 m => Sys2Proof.Machine.execDrop0 m s
  | .drop1 m => Sys2Proof.Machine.execDrop1 m s
  | .drop2 m => Sys2Proof.Machine.execDrop2 m s
  | .route1 m => Sys2Proof.Machine.execRoute1 m s
  | .drop4 m => Sys2Proof.Machine.execDrop4 m s
  | .drop5 m => Sys2Proof.Machine.execDrop5 m s
  | .drop6 m => Sys2Proof.Machine.execDrop6 m s
  | .route2 m => Sys2Proof.Machine.execRoute2 m s
  | .drop8 m => Sys2Proof.Machine.execDrop8 m s
  | .drop9 m => Sys2Proof.Machine.execDrop9 m s
  | .dropA m => Sys2Proof.Machine.execDropA m s
  | .route3 m => Sys2Proof.Machine.execRoute3 m s
  | .dropC m => Sys2Proof.Machine.execDropC m s
  | .dropD m => Sys2Proof.Machine.execDropD m s
  | .route4 m => Sys2Proof.Machine.execRoute4 m s
  | .dropF m => Sys2Proof.Machine.execDropF m s
  | .decU16 n w => Sys2Proof.Machine.execDecU16 n w s
  | .decS16 n w => Sys2Proof.Machine.execDecS16 n w s
  | .decU32 n w => Sys2Proof.Machine.execDecU32 n w s
  | .decS32 n w => Sys2Proof.Machine.execDecS32 n w s
  | .decU16O n w => Sys2Proof.Machine.execDecU16O n w s

end Sys2Proof.Machine
end

