-- ==== Sys2Proof/Machine/Step.lean ====
section
/-! DEFINITION. One step of the core (R145): the input of the step is sampled; reset has priority
(R150); else the command is executed, or refused if its code or operand is reserved (R151, R147). -/

namespace Sys2Proof.Machine

def step (s : State) : Host.Outcome State Fault Refusal :=
  let p := (fetch s).1
  let s' := (fetch s).2
  if p.rst then .next (applyReset s')
  else
    match decodeCommand p with
    | .ok i => exec i s'
    | .error e => .refused (refusalOf e)

/-- `s` with the table word's instruction placed so that the very next step runs it (logs 10, 11). -/
def State.withFetchWord (s : State) (nbits w : Nat) : State :=
  if nbits ≤ 8 then placeCommand (tableInput w) s
  else placeWord (BitVec.ofNat 16 w) s

end Sys2Proof.Machine
end

