-- ==== Sys2Proof/Machine/FloatValue.lean ====
section
/-! DEFINITION. What a binary64 pattern denotes, as an exact rational, and the facts of the format
that R125 speaks of. No step uses this file; statements about the product do. -/

namespace Sys2Proof.Machine

/-- The number a finite pattern denotes: `(−1)^sign · significand · 2^quantum` (R31, G1). -/
def F64.toRat (x : F64) : ℚ :=
  (if F64.sign x then -1 else 1) * (F64.significand x : ℚ) * (2 : ℚ) ^ F64.quantum x

/-- The infinity of a sign (R125). -/
def F64.infinity (neg : Bool) : F64 := BitVec.ofNat 64 ((if neg then 2 ^ 63 else 0) + infinityBits)

/-- The zero of a sign (R125). -/
def F64.zero (neg : Bool) : F64 := BitVec.ofNat 64 (if neg then 2 ^ 63 else 0)

/-- 1.0. -/
def F64.one : F64 := 0x3FF0000000000000#64

/-- The midpoint between the largest finite number and the next power of two: a product of at least
this magnitude rounds past the largest finite number (R125, G2). -/
def F64.overflowBound : ℚ := (2 ^ 54 - 1) * 2 ^ 970

end Sys2Proof.Machine
end

