-- ==== Sys2Proof/Machine/Batch.lean ====
section
/-! DEFINITION. The three stages as functions on whole sequences, the source's batch pipeline
(R90, R100, R115), against which the streaming core is stated. -/

namespace Sys2Proof.Machine

/-- `Assemble(B)`: disjoint pairs in order, an odd last byte in no Word (R90). -/
def assemble : List Byte → List Word
  | hi :: lo :: rest => pairWord hi lo :: assemble rest
  | _ => []

/-- The tag of each channel, Table P1 (R8). -/
def channelTag : Channel → Tag
  | .ch1 => 0x3#4
  | .ch2 => 0x7#4
  | .ch3 => 0xB#4
  | .ch4 => 0xE#4

/-- The subsequence of a Word sequence routed to channel n (R100). -/
def channelWords (n : Channel) (ws : List Word) : List Word :=
  ws.filter (fun w => decide (tagOf w = channelTag n))

/-- A Word whose tag is none of the four (R100). -/
def isDropped (w : Word) : Bool :=
  decide (tagOf w ≠ 0x3#4 ∧ tagOf w ≠ 0x7#4 ∧ tagOf w ≠ 0xB#4 ∧ tagOf w ≠ 0xE#4)

/-- `D`, the subsequence of all other Words (R100). -/
def droppedWords (ws : List Word) : List Word := ws.filter isDropped

/-- `DecodeValue` under a ChannelConfig (R115). -/
def valueUnder (c : ChannelConfig) (w : Word) : F64 := decodeValue w c.ty c.sf c.isf

/-- `DecodeSeq(C, c)` (R115). -/
def decodeSeq (ws : List Word) (c : ChannelConfig) : List F64 := ws.map (valueUnder c)

/-- The records of a channel's Word sequence: each Word with its DecodedValue (R37). -/
def recordSeq (ws : List Word) (c : ChannelConfig) : List (Record Word) :=
  ws.map (fun w => .val w (valueUnder c w))

/-- The DecodedValue of a record, if it holds one. -/
def Record.value? {ω : Type} : Record ω → Option F64
  | .val _ f => some f
  | .err _ _ => none

end Sys2Proof.Machine
end

