-- ==== Sys2Proof/Machine/Text.lean ====
section
/-! DEFINITION. The text level: Tokens and Words as characters, the exact tag comparison, and the
decode that alone can raise ParseError (R10, R91, R110, R129, R166, R167; log 14). The hardware has no
text port: no step calls this file (R130, R168). -/

namespace Sys2Proof.Machine

/-- A Token: the two characters of a byte (R11). -/
structure Token where
  c0 : Char
  c1 : Char
  deriving DecidableEq, Repr

/-- A word text: exactly four characters (R10). -/
structure WordText where
  c0 : Char
  c1 : Char
  c2 : Char
  c3 : Char
  deriving DecidableEq, Repr

/-- A word text from characters; a length other than 4 is none (R10, U10). -/
def wordTextOf : List Char → Option WordText
  | [a, b, c, d] => some { c0 := a, c1 := b, c2 := c, c3 := d }
  | _ => none

/-- `hexdigit(k)`, lower case (R10, D10). -/
def hexdigit (k : BitVec 4) : Char :=
  Char.ofNat (if k.toNat < 10 then 48 + k.toNat else 87 + k.toNat)

/-- `tok(b)` (R10). -/
def tok (b : Byte) : Token :=
  { c0 := hexdigit (b.extractLsb' 4 4), c1 := hexdigit (b.extractLsb' 0 4) }

/-- `text(w)` (R10). -/
def textOf (w : Word) : WordText :=
  { c0 := hexdigit (w.extractLsb' 12 4)
    c1 := hexdigit (w.extractLsb' 8 4)
    c2 := hexdigit (w.extractLsb' 4 4)
    c3 := hexdigit (w.extractLsb' 0 4) }

/-- Two consecutive Tokens concatenated (R11, R91). -/
def pairTokens (a b : Token) : WordText := { c0 := a.c0, c1 := a.c1, c2 := b.c0, c3 := b.c1 }

/-- The assembler at the text level (R90). -/
def assembleTokens : List Token → List WordText
  | a :: b :: rest => pairTokens a b :: assembleTokens rest
  | _ => []

/-- `hexval(c)`: `0-9`, `a-f` and `A-F`; undefined for every other character (R10, D22). -/
def hexval (c : Char) : Option Nat :=
  let k := c.toNat
  if 48 ≤ k ∧ k ≤ 57 then some (k - 48)
  else if 97 ≤ k ∧ k ≤ 102 then some (k - 87)
  else if 65 ≤ k ∧ k ≤ 70 then some (k - 55)
  else none

/-- The channel of a word text, its first character compared exactly; `none` is a DROP (R110). -/
def textChannel (t : WordText) : Option Channel :=
  if t.c0 = '3' then some .ch1
  else if t.c0 = '7' then some .ch2
  else if t.c0 = 'b' then some .ch3
  else if t.c0 = 'e' then some .ch4
  else none

/-- What a ParseError records: the channel, the word index and the Word text; its cause code is
`parseErrorCause` (R166). -/
structure ParseError where
  channel : Channel
  index : Nat
  text : WordText
  deriving DecidableEq, Repr

/-- The residual text parsed as hex: three hex characters and nothing else (R129, D22). -/
def parseResidual (t : WordText) : Option Nat :=
  match hexval t.c1, hexval t.c2, hexval t.c3 with
  | some a, some b, some c => some (256 * a + 16 * b + c)
  | _, _, _ => none

/-- `DecodeText(n, i, s)` under the channel's configuration (R129). -/
def decodeText (n : Channel) (i : Nat) (t : WordText) (c : ChannelConfig) :
    Except ParseError F64 :=
  match parseResidual t with
  | some v => .ok (decodeMagnitude v c.ty c.sf c.isf)
  | none => .error { channel := n, index := i, text := t }

/-- The record a text-level decode leaves: `Err` takes the place of the value (R167). -/
def textRecord (n : Channel) (i : Nat) (t : WordText) (c : ChannelConfig) : Record WordText :=
  match decodeText n i t c with
  | .ok f => .val t f
  | .error _ => .err t parseErrorCause

/-- The text-level run: the source's lists, and the ParseError reports it has delivered. -/
structure TextRun where
  CHW : PerChannel (List WordText)
  DROPPED : List WordText
  OUT : PerChannel (List (Record WordText))
  /-- DESIGN CHOICE (log 21): the spec does not say how a report is delivered (N21). Here the reports
  of all channels form one list, oldest first. It is no state of the core: no step reads it (R176). -/
  errors : List ParseError
  deriving DecidableEq, Repr

def TextRun.empty : TextRun :=
  { CHW := PerChannel.all [], DROPPED := [], OUT := PerChannel.all [], errors := [] }

/-- One word text of a run: dropped by its first character without being parsed (R110, R174), or
routed and decoded, a ParseError being scoped to it (R167). The word index is the position in the
channel's own sequence (R39, R166). Its report is put at the end of `errors`: DESIGN CHOICE (log 21). -/
def textStep (cfg : PerChannel ChannelConfig) (r : TextRun) (t : WordText) : TextRun :=
  match textChannel t with
  | none => { r with DROPPED := r.DROPPED ++ [t] }
  | some n =>
    let i := (r.OUT.get n).length
    let report :=
      match decodeText n i t (cfg.get n) with
      | .ok _ => []
      | .error e => [e]
    { r with
      CHW := r.CHW.push n t
      OUT := r.OUT.push n (textRecord n i t (cfg.get n))
      errors := r.errors ++ report }

/-- A run over a sequence of word texts. -/
def textRun (cfg : PerChannel ChannelConfig) (ts : List WordText) : TextRun :=
  ts.foldl (textStep cfg) TextRun.empty

end Sys2Proof.Machine
end

