-- ==== Sys2Proof/Machine/HostSide.lean ====
section
/-! DEFINITION. The host's side of the input ports: transactions and pseudo-instructions as command
sequences, and what a sequence of commands feeds to the assembler (R83, R155). -/

namespace Sys2Proof.Machine

/-! ## The commands as port samples (R75, R82) -/

def nopInput : Input := commandInput 0#3 0#8 0#75
def cfgInput (ch : BitVec 2) (ty : BitVec 3) (sf : BitVec 6) (isf : F64) : Input :=
  commandInput 1#3 0#8 (cfgOperand ch ty sf isf)
def startInput : Input := commandInput 2#3 0#8 0#75
def pushInput (b : Byte) : Input := commandInput 3#3 b 0#75
def endInput : Input := commandInput 4#3 0#8 0#75

/-- `RST`: one step with the reset input high (R82). -/
def rstInput : Input := { nopInput with rst := true }

/-- `WORD 0xHHLL`: two PUSHes, high byte first (R83). -/
def wordCommands (w : Word) : List Input := [pushInput (hiByte w), pushInput (loByte w)]

/-- One result of the capture driver's read, as far as it concerns the core (R154): `byteCount` and
`masterOutBytes[]`. The other fields never reach the core (R155, R157). -/
structure Transaction where
  byteCount : Int
  masterOutBytes : List Byte
  deriving DecidableEq, Repr

/-- The bytes of a transaction that the host presents: those of index 0 to byteCount − 1, none when
byteCount ≤ 0 (R155; log 17). -/
def Transaction.bytes (t : Transaction) : List Byte := t.masterOutBytes.take t.byteCount.toNat

/-- `TXN`: one PUSH per byte, in index order (R83, R155). -/
def Transaction.commands (t : Transaction) : List Input := t.bytes.map pushInput

/-- The commands of the transactions of a run, in the order read (R63, R155). -/
def transactionCommands (ts : List Transaction) : List Input := ts.flatMap Transaction.commands

/-- The byte a port sample offers to the assembler: that of a PUSH, and none of any other command. -/
def offeredByte (p : Input) : Option Byte := if p.cmd = 3#3 then some p.inData else none

/-- The bytes offered by a command sequence, in order. -/
def offeredBytes (ps : List Input) : List Byte := ps.filterMap offeredByte

end Sys2Proof.Machine
end

