-- ==== Sys2Proof/Safety.lean ====
section
/-! DEFINITION. What the statements speak of: inputs the spec gives a meaning, the invariant of the
data model, and the agreement of two states up to a held byte that no rule reads. -/

namespace Sys2Proof.Machine

/-- An input outside the "not allowed" row of the host's table (R156): a reset, or a command that
decodes. -/
def legalInput (p : Input) : Bool := p.rst || (decodeCommand p).isOk

/-- A command inside a run: no reset, no END, and legal (R160). -/
def withinRun (p : Input) : Bool := !p.rst && p.cmd != 4#3 && legalInput p

/-- The invariant of the data model. -/
structure State.Inv (s : State) : Prop where
  /-- No byte is held while idle (R149, R150). -/
  idle_phase : s.RUN = false → s.HAVE = false
  /-- `HAVE = |BUF| mod 2` in a run (R25). -/
  run_phase : s.RUN = true → s.HAVE = decide (s.BUF.length % 2 = 1)
  /-- The held byte is the last one accepted (R22). -/
  held_byte : s.HAVE = true → s.BUF.getLast? = some s.HOLD
  /-- `WORDS = Assemble(BUF)` (R35, R98). -/
  words_assembled : s.WORDS = assemble s.BUF
  /-- The channels hold the Words of their tags, in order (R36, R108). -/
  words_routed : ∀ n, s.CHW.get n = channelWords n s.WORDS
  /-- The rest are dropped (R36, R108). -/
  words_dropped : s.DROPPED = droppedWords s.WORDS
  /-- One record per routed Word, in order, for that Word (R37). -/
  records_of_words : ∀ n, (s.OUT.get n).map Record.word = s.CHW.get n
  /-- Every record is a `Val` (R37, R130). -/
  records_are_values : ∀ n, ∀ r ∈ s.OUT.get n, r.isVal = true
  /-- In a run the records are the decodes under the configuration in force (R33, R115). -/
  records_decoded : s.RUN = true → ∀ n, s.OUT.get n = recordSeq (s.CHW.get n) (s.CFG.get n)
  /-- Every scale is finite (R31). -/
  scales_finite : ∀ n, scaleFinite (s.CFG.get n).isf = true

/-- Two states that differ at most in a `HOLD` that no rule reads, that is, while `HAVE = 0`
(R22, U5). -/
structure State.Agrees (s t : State) : Prop where
  run : s.RUN = t.RUN
  phase : s.HAVE = t.HAVE
  held : s.HAVE = true → s.HOLD = t.HOLD
  cfg : s.CFG = t.CFG
  buf : s.BUF = t.BUF
  words : s.WORDS = t.WORDS
  routed : s.CHW = t.CHW
  dropped : s.DROPPED = t.DROPPED
  out : s.OUT = t.OUT
  input : s.input = t.input
  beat : s.beat = t.beat

/-- Two outcomes that agree: the same refusal, or next states that agree. -/
def outcomesAgree : Result → Result → Prop
  | .next s, .next t => s.Agrees t
  | .refused r, .refused q => r = q
  | _, _ => False

end Sys2Proof.Machine
end

