-- ==== Sys2Proof/Certificates/Slice0/Obligations.lean ====
section
/-! DEFINITION. The statements for the provers, from the numbered rules of spec/. Nothing is proved
here. -/

open Sys2Proof Sys2Proof.Machine

/-! ## Encodings -/

/-- A few items written out bit by bit from 30_encoding.md, with what they decode to. -/
def Obligations.WrittenWordsDecode : Prop :=
  decode (.command { rst := false, cmd := 0b000#3, inData := 0xFF#8, cfgOp := 0#75 }) = .ok .nop ∧
  decode (.command
      { rst := false, cmd := 0b001#3, inData := 0#8, cfgOp := 0x0C43FF0000000000000#75 }) =
    .ok (.cfg 0b00#2 0b011#3 0b000100#6 0x3FF0000000000000#64) ∧
  decode (.command { rst := false, cmd := 0b011#3, inData := 0x30#8, cfgOp := 0#75 }) =
    .ok (.push 0x30#8) ∧
  decode (.word 0b0011000000000001#16) = .ok (.route1 0x001#12) ∧
  decode (.word 0b1110011111111111#16) = .ok (.route4 0x7FF#12) ∧
  decode (.word 0b1111111111111111#16) = .ok (.dropF 0xFFF#12) ∧
  decode (.typed 0b011#3 .ch2 0x7123#16) = .ok (.decS32 .ch2 0x7123#16)

/-- Every well-formed instruction is read back from its encoding, whatever its operands. -/
def Obligations.EncodedInstructionDecodes : Prop :=
  ∀ i : Instr, i.wellFormed = true → decode (encode i) = .ok i

/-- What decodes is well formed, and its encoding has every bit the format reads: the command code
and the data port the command reads, the whole Word, the whole type item. -/
def Obligations.DecodedItemIsReencoded : Prop :=
  ∀ (x : Item) (i : Instr), decode x = .ok i →
    i.wellFormed = true ∧
    match x with
    | .command p =>
      ∃ q : Input, encode i = .command q ∧ q.rst = false ∧ q.cmd = p.cmd ∧
        (p.cmd = 1#3 → q.cfgOp = p.cfgOp) ∧ (p.cmd = 3#3 → q.inData = p.inData)
    | .word w => encode i = .word w
    | .typed code n w => encode i = .typed code n w

/-- R52, R72: the first byte is the high byte, so the tag is its high nibble and the magnitude its
low nibble followed by the second byte. -/
def Obligations.PairIsBigEndian : Prop :=
  ∀ hi lo : Byte,
    assemble [hi, lo] = [pairWord hi lo] ∧
    (pairWord hi lo).toNat = 256 * hi.toNat + lo.toNat ∧
    hiByte (pairWord hi lo) = hi ∧ loByte (pairWord hi lo) = lo ∧
    tagOf (pairWord hi lo) = hi.extractLsb' 4 4 ∧
    magOf (pairWord hi lo) = (hi.extractLsb' 0 4 ++ lo : BitVec (4 + 8))

/-- R77: the fields of the CFG operand, and the register each number names. -/
def Obligations.CfgOperandFields : Prop :=
  (∀ p : Input, p.cmd = 1#3 → (p.cfgOp.extractLsb' 70 3).toNat < 5 →
    p.cfgOp.extractLsb' 52 11 ≠ 0x7FF#11 →
    decodeCommand p = .ok (.cfg (p.cfgOp.extractLsb' 73 2) (p.cfgOp.extractLsb' 70 3)
      (p.cfgOp.extractLsb' 64 6) (p.cfgOp.extractLsb' 0 64))) ∧
  channelOfNumber 0#2 = .ch1 ∧ channelOfNumber 1#2 = .ch2 ∧
  channelOfNumber 2#2 = .ch3 ∧ channelOfNumber 3#2 = .ch4

/-! ## Reset -/

/-- Table S2 but for the registers: the values the spec gives for after reset. -/
def Sys2Proof.Machine.AfterReset (s : State) : Prop :=
  s.RUN = false ∧ s.HAVE = false ∧ s.BUF = [] ∧ s.WORDS = [] ∧ s.DROPPED = [] ∧
  (∀ n, s.CHW.get n = [] ∧ s.OUT.get n = [] ∧ s.idx n = 0) ∧ s.beat = none

/-- R41: the state after reset. `HOLD` and the configuration are unspecified after power-up, the
latter legal; the statement does not rest on the values the model names for them (logs 4 and 5). A
later reset keeps the configuration last written. -/
def Obligations.ResetStateValues : Prop :=
  AfterReset State.reset ∧ (∀ n, scaleFinite (State.reset.CFG.get n).isf = true) ∧
  ∀ (s : State) (p : Input) (rest : List Input), s.input = p :: rest → p.rst = true →
    ∃ t, step s = .next t ∧ AfterReset t ∧ t.CFG = s.CFG

/-- The invariant holds at reset. -/
def Obligations.ResetMeetsDataModel : Prop := State.reset.Inv

/-- R150: one step with `rst = 1`, whatever the command of the step. -/
def Obligations.ResetInputIdlesTheCore : Prop :=
  ∀ (s : State) (p : Input) (rest : List Input), s.input = p :: rest → p.rst = true →
    step s = .next
      { s with
        RUN := false, HAVE := false, BUF := [], WORDS := [], DROPPED := [],
        CHW := PerChannel.all [], OUT := PerChannel.all [], input := rest, beat := none }

/-! ## The step -/

/-- A step takes the next input of the host off its list and, when `rst` is low and the command
decodes, is `exec` of the decoded instruction. With nothing listed the step runs NOP (log 2). -/
def Obligations.StepRunsDecodedCommand : Prop :=
  (∀ (s : State) (p : Input) (rest : List Input) (i : Instr), s.input = p :: rest →
    p.rst = false → decodeCommand p = .ok i → step s = exec i { s with input := rest }) ∧
  (∀ s : State, s.input = [] → step s = exec .nop s)

/-- The PUSH that completes a Word runs, in the same step, the instruction that the Word decodes to. -/
def Obligations.StepRunsFormedWord : Prop :=
  ∀ (s : State) (p : Input) (rest : List Input), s.input = p :: rest → p.rst = false →
    p.cmd = 3#3 → s.RUN = true → s.HAVE = true →
    step s = exec (decodeWord (pairWord s.HOLD p.inData))
      { s with
        input := rest, HAVE := false, BUF := s.BUF ++ [p.inData],
        WORDS := s.WORDS ++ [pairWord s.HOLD p.inData] }

/-- R151: a reserved command code is refused, in every state. -/
def Obligations.ReservedCommandRefused : Prop :=
  ∀ (s : State) (p : Input) (rest : List Input), s.input = p :: rest → p.rst = false →
    5 ≤ p.cmd.toNat → step s = .refused (.reservedCommand p.cmd)

/-- R145: every command of the set is taken in every state, none faults, and only the inputs without
a meaning are refused. -/
def Obligations.EveryCommandIsTaken : Prop :=
  ∀ s : State,
    (legalInput (fetch s).1 = true → ∃ t, step s = .next t) ∧
    (legalInput (fetch s).1 = false → ∃ r, step s = .refused r) ∧
    (∀ f, step s ≠ .fault f)

/-! ## The commands -/

/-- R146. -/
def Obligations.NopChangesNothing : Prop :=
  (∀ p : Input, p.cmd = 0#3 → decodeCommand p = .ok .nop) ∧
  ∀ s : State, exec .nop s = .next { s with beat := none }

/-- R147, on the ports. -/
def Obligations.CfgCommandOnThePorts : Prop :=
  ∀ (s : State) (p : Input) (rest : List Input), s.input = p :: rest → p.rst = false →
    p.cmd = 1#3 →
    let ch := p.cfgOp.extractLsb' 73 2
    let ty := p.cfgOp.extractLsb' 70 3
    let sf := p.cfgOp.extractLsb' 64 6
    let isf := p.cfgOp.extractLsb' 0 64
    if 5 ≤ ty.toNat ∨ isf.extractLsb' 52 11 = 0x7FF#11 then ∃ r, step s = .refused r
    else if s.RUN = false then
      ∃ d, codeOfType d = ty ∧
        step s = .next
          { s with
            CFG := s.CFG.set (channelOfNumber ch) { ty := d, sf := sf, isf := isf }
            input := rest, beat := none }
    else step s = .next { s with input := rest, beat := none }

/-- CFG completes on every legal operand: idle, it writes the one register whole; in a run it changes
nothing. -/
def Obligations.CfgWritesWholeRegister : Prop :=
  ∀ (s : State) (n : Channel) (d : TypeDescriptor) (sf : BitVec 6) (isf : F64),
    scaleFinite isf = true →
    exec (.cfg (numberOfChannel n) (codeOfType d) sf isf) s =
      .next
        { s with
          CFG := if s.RUN then s.CFG else s.CFG.set n { ty := d, sf := sf, isf := isf }
          beat := none }

/-- CFG stops on a reserved type code and on a non-finite scale, whether or not a run is in
progress; where both hold the type code is named (the model's order, log 7). -/
def Obligations.CfgRefusesIllegalOperand : Prop :=
  ∀ (s : State) (ch : BitVec 2) (ty : BitVec 3) (sf : BitVec 6) (isf : F64),
    (5 ≤ ty.toNat → exec (.cfg ch ty sf isf) s = .refused (.reservedType ty)) ∧
    (ty.toNat < 5 → isf.extractLsb' 52 11 = 0x7FF#11 →
      exec (.cfg ch ty sf isf) s = .refused (.nonFiniteScale isf))

/-- R148. -/
def Obligations.StartOpensRun : Prop :=
  (∀ p : Input, p.cmd = 2#3 → decodeCommand p = .ok .start) ∧
  ∀ s : State,
    exec .start s =
      if s.RUN = false then
        .next
          { s with
            RUN := true, HAVE := false, BUF := [], WORDS := [], DROPPED := [],
            CHW := PerChannel.all [], OUT := PerChannel.all [], beat := none }
      else .next { s with beat := none }

/-- R149. -/
def Obligations.EndClosesRun : Prop :=
  (∀ p : Input, p.cmd = 4#3 → decodeCommand p = .ok .endRun) ∧
  ∀ s : State,
    exec .endRun s =
      if s.RUN = true then .next { s with RUN := false, HAVE := false, beat := none }
      else .next { s with beat := none }

/-- R92. -/
def Obligations.PushHoldsFirstByte : Prop :=
  (∀ p : Input, p.cmd = 3#3 → decodeCommand p = .ok (.push p.inData)) ∧
  ∀ (s : State) (b : Byte), s.RUN = true → s.HAVE = false →
    exec (.push b) s =
      .next { s with HOLD := b, HAVE := true, BUF := s.BUF ++ [b], beat := none }

/-- R93: the second byte forms the Word and hands it to the demultiplexer in the same step; a beat is
presented for the four routing tags and for no other. -/
def Obligations.PushFormsWord : Prop :=
  (∀ p : Input, p.cmd = 3#3 → decodeCommand p = .ok (.push p.inData)) ∧
  ∀ (s : State) (b : Byte), s.RUN = true → s.HAVE = true →
    let w := pairWord s.HOLD b
    exec (.push b) s =
      exec (decodeWord w)
        { s with HAVE := false, BUF := s.BUF ++ [b], WORDS := s.WORDS ++ [w] } ∧
    ∃ t, exec (.push b) s = .next t ∧ t.RUN = true ∧ t.HAVE = false ∧ t.HOLD = s.HOLD ∧
      t.CFG = s.CFG ∧ t.BUF = s.BUF ++ [b] ∧ t.WORDS = s.WORDS ++ [w] ∧ t.input = s.input ∧
      (t.beat ≠ none ↔
        tagOf w = 0x3#4 ∨ tagOf w = 0x7#4 ∨ tagOf w = 0xB#4 ∨ tagOf w = 0xE#4)

/-- R94. -/
def Obligations.PushWhileIdleIgnored : Prop :=
  (∀ p : Input, p.cmd = 3#3 → decodeCommand p = .ok (.push p.inData)) ∧
  ∀ (s : State) (b : Byte), s.RUN = false → exec (.push b) s = .next { s with beat := none }

/-! ## The Word operations -/

/-- What routing the Word `w` to channel n does to the state: the Word appended with its tag, one
value record appended, one beat (R102, R115, R78). -/
def Sys2Proof.Machine.afterRoute (s : State) (n : Channel) (mark : BitVec 4) (w : Word) : State :=
  { s with
    CHW := s.CHW.set n (s.CHW.get n ++ [w])
    OUT := s.OUT.set n
      (s.OUT.get n ++
        [.val w (decodeValue w (s.CFG.get n).ty (s.CFG.get n).sf (s.CFG.get n).isf)])
    beat := some
      { outValid := mark, outWord := w, outErr := 0#1
        outData := decodeValue w (s.CFG.get n).ty (s.CFG.get n).sf (s.CFG.get n).isf } }

/-- R102 to R105, with the Words that encode each operation. That the operations do not test whether
their Word was just formed is the model's choice (log 22). -/
def Obligations.RouteAppendsAndDecodes : Prop :=
  (∀ w : Word,
    (w &&& 0xF000#16 = 0x3000#16 → decodeWord w = .route1 (w.extractLsb' 0 12)) ∧
    (w &&& 0xF000#16 = 0x7000#16 → decodeWord w = .route2 (w.extractLsb' 0 12)) ∧
    (w &&& 0xF000#16 = 0xB000#16 → decodeWord w = .route3 (w.extractLsb' 0 12)) ∧
    (w &&& 0xF000#16 = 0xE000#16 → decodeWord w = .route4 (w.extractLsb' 0 12))) ∧
  ∀ (s : State) (m : Mag), s.RUN = true →
    exec (.route1 m) s = .next (afterRoute s .ch1 0b0001#4 (0x3#4 ++ m : BitVec (4 + 12))) ∧
    exec (.route2 m) s = .next (afterRoute s .ch2 0b0010#4 (0x7#4 ++ m : BitVec (4 + 12))) ∧
    exec (.route3 m) s = .next (afterRoute s .ch3 0b0100#4 (0xB#4 ++ m : BitVec (4 + 12))) ∧
    exec (.route4 m) s = .next (afterRoute s .ch4 0b1000#4 (0xE#4 ++ m : BitVec (4 + 12)))

/-- R106, on each of the twelve tags, with the Words that encode it. That the operations do not test
whether their Word was just formed is the model's choice (log 22). -/
def Obligations.DropOnlyRecordsTheWord : Prop :=
  (∀ w : Word,
    let m := w.extractLsb' 0 12
    let x := w &&& 0xF000#16
    (x = 0x0000#16 → decodeWord w = .drop0 m) ∧ (x = 0x1000#16 → decodeWord w = .drop1 m) ∧
    (x = 0x2000#16 → decodeWord w = .drop2 m) ∧ (x = 0x4000#16 → decodeWord w = .drop4 m) ∧
    (x = 0x5000#16 → decodeWord w = .drop5 m) ∧ (x = 0x6000#16 → decodeWord w = .drop6 m) ∧
    (x = 0x8000#16 → decodeWord w = .drop8 m) ∧ (x = 0x9000#16 → decodeWord w = .drop9 m) ∧
    (x = 0xA000#16 → decodeWord w = .dropA m) ∧ (x = 0xC000#16 → decodeWord w = .dropC m) ∧
    (x = 0xD000#16 → decodeWord w = .dropD m) ∧ (x = 0xF000#16 → decodeWord w = .dropF m)) ∧
  ∀ (s : State) (m : Mag), s.RUN = true →
    let after (t : Tag) : State :=
      { s with DROPPED := s.DROPPED ++ [(t ++ m : BitVec (4 + 12))], beat := none }
    exec (.drop0 m) s = .next (after 0x0#4) ∧ exec (.drop1 m) s = .next (after 0x1#4) ∧
    exec (.drop2 m) s = .next (after 0x2#4) ∧ exec (.drop4 m) s = .next (after 0x4#4) ∧
    exec (.drop5 m) s = .next (after 0x5#4) ∧ exec (.drop6 m) s = .next (after 0x6#4) ∧
    exec (.drop8 m) s = .next (after 0x8#4) ∧ exec (.drop9 m) s = .next (after 0x9#4) ∧
    exec (.dropA m) s = .next (after 0xA#4) ∧ exec (.dropC m) s = .next (after 0xC#4) ∧
    exec (.dropD m) s = .next (after 0xD#4) ∧ exec (.dropF m) s = .next (after 0xF#4)

/-- The model's reading of the condition "RUN = 1" of the Word operations (log 9): outside a run they
change nothing. -/
def Obligations.WordOperationsNeedARun : Prop :=
  ∀ (s : State) (w : Word), s.RUN = false → exec (decodeWord w) s = .next { s with beat := none }

/-- A routed Word runs, in the same step, the decode operation that the channel's TYPE selects. That
the ROUTE does not test whether its Word was just formed is the model's choice (log 22). -/
def Obligations.RouteRunsSelectedOperation : Prop :=
  ∀ (s : State) (n : Channel) (w : Word), s.RUN = true → tagOf w = channelTag n →
    exec (decodeWord w) s =
      exec (decodeOperation (s.CFG.get n).ty n w)
        { s with CHW := s.CHW.set n (s.CHW.get n ++ [w]) }

/-- The Word and decode operations write no stored state: only the histories they append to and the
output port. Outside the conditions of the rules what they do is the model's choice (logs 9, 22). -/
def Obligations.WordAndDecodeFrame : Prop :=
  ∀ (s t : State) (i : Instr),
    ((∃ w, i = decodeWord w) ∨ (∃ ty n w, i = decodeOperation ty n w)) → exec i s = .next t →
    t.RUN = s.RUN ∧ t.HAVE = s.HAVE ∧ t.HOLD = s.HOLD ∧ t.CFG = s.CFG ∧ t.BUF = s.BUF ∧
    t.WORDS = s.WORDS ∧ t.input = s.input

/-- R108: the routing is total and exclusive, on every Word and on every sequence of Words. -/
def Obligations.RoutingIsAPartition : Prop :=
  (∀ w : Word, (isDropped w = true ↔ ∀ n, tagOf w ≠ channelTag n) ∧
    ∀ n k, tagOf w = channelTag n → tagOf w = channelTag k → n = k) ∧
  ∀ ws : List Word,
    (channelWords .ch1 ws).length + (channelWords .ch2 ws).length +
      (channelWords .ch3 ws).length + (channelWords .ch4 ws).length +
      (droppedWords ws).length = ws.length

/-! ## The decode operations -/

/-- What a decode operation with the integer code `V4` does to the state. -/
def Sys2Proof.Machine.afterDecode (s : State) (n : Channel) (w : Word) (v4 : Int) : State :=
  { s with
    OUT := s.OUT.set n (s.OUT.get n ++ [.val w (fmul (f64OfInt v4) (s.CFG.get n).isf)])
    beat := some
      { outValid := channelMark n, outWord := w, outErr := 0#1
        outData := fmul (f64OfInt v4) (s.CFG.get n).isf } }

/-- R131, with its corner cases. Where `w` has not the tag of channel n, so that the rule's condition
fails, the same is the model's choice (log 22). -/
def Obligations.DecodeUnsigned16 : Prop :=
  (∀ (n : Channel) (w : Word), decodeTyped 0#3 n w = .ok (.decU16 n w)) ∧
  ∀ (s : State) (n : Channel) (w : Word), s.RUN = true → (s.CFG.get n).ty = .unsigned16 →
    let V : Int := ((w.extractLsb' 0 12).toNat : Int)
    let SF : Nat := (s.CFG.get n).sf.toNat
    let V4 : Int := (16 * V) / 2 ^ SF
    exec (.decU16 n w) s = .next (afterDecode s n w V4) ∧
    0 ≤ V4 ∧ (SF = 4 → V4 = V) ∧ (16 ≤ SF → V4 = 0) ∧
    (SF < 4 → (2 : Int) ^ (4 - SF) ∣ V4) ∧
    (V = 0 → scaleFinite (s.CFG.get n).isf = true →
      fmul (f64OfInt V4) (s.CFG.get n).isf = F64.zero (F64.sign (s.CFG.get n).isf))

/-- R132, with its corner cases. Where `w` has not the tag of channel n, so that the rule's condition
fails, the same is the model's choice (log 22). -/
def Obligations.DecodeSigned16 : Prop :=
  (∀ (n : Channel) (w : Word), decodeTyped 1#3 n w = .ok (.decS16 n w)) ∧
  ∀ (s : State) (n : Channel) (w : Word), s.RUN = true → (s.CFG.get n).ty = .signed16 →
    let V : Int := ((w.extractLsb' 0 12).toNat : Int)
    let SF : Nat := (s.CFG.get n).sf.toNat
    let V3 : Int := 16 * V - 32768
    let V4 : Int := V3 / 2 ^ SF
    let value : F64 := fmul (f64OfInt V4) (s.CFG.get n).isf
    exec (.decS16 n w) s = .next (afterDecode s n w V4) ∧
    (V = 0 → V3 = -32768) ∧ (V = 0xFFF → V3 = 32752) ∧
    (SF = 0 → scaleFinite (s.CFG.get n).isf = true → 0 < F64.toRat (s.CFG.get n).isf →
      (V = 0x7FF → F64.sign value = true ∧ value ≠ F64.zero true) ∧
      (V = 0x800 → value = F64.zero false) ∧
      (V = 0x801 → F64.sign value = false ∧ value ≠ F64.zero false)) ∧
    (SF = 0 → (V = 0x7FF → V4 = -16) ∧ (V = 0x800 → V4 = 0) ∧ (V = 0x801 → V4 = 16)) ∧
    (SF = 4 → (V = 0x7FF → V4 = -1) ∧ (V = 0x800 → V4 = 0) ∧ (V = 0x801 → V4 = 1)) ∧
    (16 ≤ SF → V4 = if V < 0x800 then -1 else 0)

/-- R133, with its corner cases. Where `w` has not the tag of channel n, so that the rule's condition
fails, the same is the model's choice (log 22). -/
def Obligations.DecodeUnsigned32 : Prop :=
  (∀ (n : Channel) (w : Word), decodeTyped 2#3 n w = .ok (.decU32 n w)) ∧
  ∀ (s : State) (n : Channel) (w : Word), s.RUN = true → (s.CFG.get n).ty = .unsigned32 →
    let V : Int := ((w.extractLsb' 0 12).toNat : Int)
    let SF : Nat := (s.CFG.get n).sf.toNat
    let V4 : Int := (1048576 * V) / 2 ^ SF
    exec (.decU32 n w) s = .next (afterDecode s n w V4) ∧
    0 ≤ V4 ∧ (V = 0xFFF → 1048576 * V = 4293918720) ∧ (SF = 20 → V4 = V) ∧ (32 ≤ SF → V4 = 0)

/-- R134, with its corner cases. Where `w` has not the tag of channel n, so that the rule's condition
fails, the same is the model's choice (log 22). -/
def Obligations.DecodeSigned32 : Prop :=
  (∀ (n : Channel) (w : Word), decodeTyped 3#3 n w = .ok (.decS32 n w)) ∧
  ∀ (s : State) (n : Channel) (w : Word), s.RUN = true → (s.CFG.get n).ty = .signed32 →
    let V : Int := ((w.extractLsb' 0 12).toNat : Int)
    let SF : Nat := (s.CFG.get n).sf.toNat
    let V3 : Int := 1048576 * V - 2147483648
    let V4 : Int := V3 / 2 ^ SF
    exec (.decS32 n w) s = .next (afterDecode s n w V4) ∧
    (V = 0x800 → V3 = 0) ∧ (V = 0 → V3 = -(2 : Int) ^ 31) ∧ (V = 0xFFF → V3 = 2146435072) ∧
    (2 : Int) ^ 20 ∣ V3 ∧ (SF ≤ 20 → V4 * 2 ^ SF = V3) ∧
    (32 ≤ SF → V4 = if V < 0x800 then -1 else 0)

/-- R135, with its corner cases. Where `w` has not the tag of channel n, so that the rule's condition
fails, the same is the model's choice (log 22). -/
def Obligations.DecodeUnsigned16Offset : Prop :=
  (∀ (n : Channel) (w : Word), decodeTyped 4#3 n w = .ok (.decU16O n w)) ∧
  ∀ (s : State) (n : Channel) (w : Word), s.RUN = true →
    (s.CFG.get n).ty = .unsigned16Offset →
    let V : Int := ((w.extractLsb' 0 12).toNat : Int)
    let SF : Nat := (s.CFG.get n).sf.toNat
    let V3 : Int := 16 * V - 6554
    let V4 : Int := V3 / 2 ^ SF
    exec (.decU16O n w) s = .next (afterDecode s n w V4) ∧
    V3 ≠ 0 ∧ (V3 < 0 ↔ V ≤ 0x199) ∧ (V = 0x199 → V3 = -10) ∧ (V = 0x19A → V3 = 6) ∧
    (V = 0 → SF = 4 → V4 = -410) ∧
    (16 ≤ SF → V4 = if V ≤ 0x199 then -1 else 0)

/-- The model's reading of the condition of the decode operations (log 9): outside a run, or for a
channel of another TYPE, the operation changes nothing. -/
def Obligations.DecodeNeedsItsType : Prop :=
  ∀ (s : State) (ty : TypeDescriptor) (n : Channel) (w : Word),
    s.RUN = false ∨ (s.CFG.get n).ty ≠ ty →
    exec (decodeOperation ty n w) s = .next { s with beat := none }

/-- R128: the value depends on the magnitude and the configuration only; the tag, and so the channel,
takes no part in it. -/
def Obligations.DecodeIgnoresTheTag : Prop :=
  ∀ (t u : Tag) (m : Mag) (ty : TypeDescriptor) (sf : BitVec 6) (isf : F64),
    decodeValue (wordOf t m) ty sf isf = decodeValue (wordOf u m) ty sf isf

/-! ## The arithmetic of the decode -/

/-- R117: Table F1. -/
def Obligations.DescriptorConstants : Prop :=
  (shiftConstant .unsigned16 = 0 ∧ offsetConstant .unsigned16 = 0) ∧
  (shiftConstant .signed16 = 0 ∧ offsetConstant .signed16 = 32768) ∧
  (shiftConstant .unsigned32 = 16 ∧ offsetConstant .unsigned32 = 0) ∧
  (shiftConstant .signed32 = 16 ∧ offsetConstant .signed32 = 2147483648) ∧
  (shiftConstant .unsigned16Offset = 0 ∧ offsetConstant .unsigned16Offset = 6554)

/-- R124: the shift of step 6 is the floor of the exact quotient, and keeps the sign; with the rule's
examples. -/
def Obligations.ShiftIsFloor : Prop :=
  (∀ (x : Int) (k : Nat),
    shr x k = ⌊(x : ℚ) / 2 ^ k⌋ ∧ (0 ≤ x → 0 ≤ shr x k) ∧ (x < 0 → shr x k < 0)) ∧
  (∀ (x : Int) (sf : BitVec 6), stepV4 x sf = ⌊(x : ℚ) / 2 ^ sf.toNat⌋) ∧
  shr (-6554) 4 = -410 ∧ shr (-16) 4 = -1 ∧ shr (-1) 1 = -1 ∧ shr (-1) 63 = -1

/-- R126: Table F2 with its bounds reached and its zeros, and the range of V4. -/
def Obligations.IntermediateRanges : Prop :=
  (∀ v : Nat,
    codeV3 v .unsigned16 = 16 * v ∧ codeV3 v .signed16 = 16 * v - 32768 ∧
    codeV3 v .unsigned32 = 1048576 * v ∧ codeV3 v .signed32 = 1048576 * v - 2147483648 ∧
    codeV3 v .unsigned16Offset = 16 * v - 6554 ∧
    (codeV3 v .unsigned16 = 0 ↔ v = 0) ∧ (codeV3 v .signed16 = 0 ↔ v = 0x800) ∧
    (codeV3 v .unsigned32 = 0 ↔ v = 0) ∧ (codeV3 v .signed32 = 0 ↔ v = 0x800) ∧
    codeV3 v .unsigned16Offset ≠ 0 ∧ (codeV3 v .unsigned16Offset < 0 ↔ v ≤ 0x199)) ∧
  (codeV3 0x199 .unsigned16Offset = -10 ∧ codeV3 0x19A .unsigned16Offset = 6) ∧
  (∀ v : Nat, v ≤ 4095 →
    (0 ≤ codeV3 v .unsigned16 ∧ codeV3 v .unsigned16 ≤ 65520) ∧
    (-32768 ≤ codeV3 v .signed16 ∧ codeV3 v .signed16 ≤ 32752) ∧
    (0 ≤ codeV3 v .unsigned32 ∧ codeV3 v .unsigned32 ≤ 4293918720) ∧
    (-2147483648 ≤ codeV3 v .signed32 ∧ codeV3 v .signed32 ≤ 2146435072) ∧
    (-6554 ≤ codeV3 v .unsigned16Offset ∧ codeV3 v .unsigned16Offset ≤ 58966)) ∧
  (codeV3 0 .unsigned16 = 0 ∧ codeV3 4095 .unsigned16 = 65520 ∧
    codeV3 0 .signed16 = -32768 ∧ codeV3 4095 .signed16 = 32752 ∧
    codeV3 0 .unsigned32 = 0 ∧ codeV3 4095 .unsigned32 = 4293918720 ∧
    codeV3 0 .signed32 = -2147483648 ∧ codeV3 4095 .signed32 = 2146435072 ∧
    codeV3 0 .unsigned16Offset = -6554 ∧ codeV3 4095 .unsigned16Offset = 58966) ∧
  (∀ (w : Word) (ty : TypeDescriptor) (sf : BitVec 6),
    let V3 := codeV3 (stepV w) ty
    let V4 := stepV4 V3 sf
    (sf = 0#6 → V4 = V3) ∧ (0 ≤ V3 → 0 ≤ V4 ∧ V4 ≤ V3) ∧ (V3 < 0 → V3 ≤ V4 ∧ V4 ≤ -1) ∧
    |V4| ≤ |V3| ∧ |V3| < 2 ^ 32)

/-- R136: large shift counts, and the count 0. -/
def Obligations.LargeShiftCounts : Prop :=
  ∀ (w : Word) (ty : TypeDescriptor) (sf : BitVec 6),
    let V3 := codeV3 (stepV w) ty
    (32 ≤ sf.toNat → stepV4 V3 sf = if 0 ≤ V3 then 0 else -1) ∧ (sf = 0#6 → stepV4 V3 sf = V3) ∧
    stepV4 V3 sf = ⌊(V3 : ℚ) / 2 ^ sf.toNat⌋

/-- R127: a 33-bit two's-complement datapath with an arithmetic shift, counts of 33 or more treated
as 33, computes the same V4 (D29). -/
def Obligations.Datapath33Suffices : Prop :=
  ∀ (w : Word) (ty : TypeDescriptor) (sf : BitVec 6),
    ((BitVec.ofInt 33 (codeV3 (stepV w) ty)).sshiftRight (min sf.toNat 33)).toInt =
      stepV4 (codeV3 (stepV w) ty) sf

/-- Every integer of magnitude at most `2^53` is converted exactly (G3). -/
def Obligations.IntegersConvertExactly : Prop :=
  ∀ i : Int, |i| ≤ 2 ^ 53 → scaleFinite (f64OfInt i) = true ∧ F64.toRat (f64OfInt i) = i

/-- R125: the value of step 7 is the exact product rounded once, ties to even. Its sign is the
exclusive-or of the signs; below the overflow bound it is a finite number no farther from the exact
product than any other finite number, an even one where another is as near; from the bound on it is
the infinity of the product's sign. -/
def Obligations.ProductIsCorrectlyRounded : Prop :=
  ∀ (v : Int) (isf : F64), |v| ≤ 2 ^ 53 → scaleFinite isf = true →
    let exact : ℚ := (v : ℚ) * F64.toRat isf
    let r := stepValue v isf
    F64.toRat (f64OfInt v) = v ∧
    F64.sign r = (decide (v < 0) ^^ F64.sign isf) ∧
    (|exact| < F64.overflowBound →
      scaleFinite r = true ∧
      ∀ y : F64, scaleFinite y = true →
        |exact - F64.toRat r| ≤ |exact - F64.toRat y| ∧
        (|exact - F64.toRat r| = |exact - F64.toRat y| → F64.toRat y ≠ F64.toRat r →
          r.getLsbD 0 = false)) ∧
    (F64.overflowBound ≤ |exact| → r = F64.infinity (decide (v < 0) ^^ F64.sign isf))

/-- The range of the result: with scale 1.0 the value is the integer V4; a scale of magnitude at most
`2^991` cannot overflow; and where V4 times the scale is itself a binary64 number, the value is that
number. -/
def Obligations.ResultRange : Prop :=
  ∀ (w : Word) (ty : TypeDescriptor) (sf : BitVec 6),
    let V4 := stepV4 (codeV3 (stepV w) ty) sf
    F64.toRat (decodeValue w ty sf F64.one) = V4 ∧
    ∀ isf : F64, scaleFinite isf = true →
      (|F64.toRat isf| ≤ 2 ^ 991 → scaleFinite (decodeValue w ty sf isf) = true) ∧
      (∀ y : F64, scaleFinite y = true → F64.toRat y = (V4 : ℚ) * F64.toRat isf →
        F64.toRat (decodeValue w ty sf isf) = (V4 : ℚ) * F64.toRat isf)

/-! ## What one step does to each element of the state -/

/-- R26: RUN is set by START and cleared by END and reset, and by nothing else. -/
def Obligations.RunFlagNextValue : Prop :=
  ∀ s t : State, step s = .next t →
    let p := (fetch s).1
    t.RUN =
      if p.rst = true then false
      else if p.cmd = 2#3 then true
      else if p.cmd = 4#3 then false
      else s.RUN

/-- R25: HAVE is set by a PUSH at phase 0, cleared by a PUSH at phase 1, by START, by END and by
reset, and by nothing else (a START in a run and an END while idle are ignored). -/
def Obligations.PhaseNextValue : Prop :=
  ∀ s t : State, step s = .next t →
    let p := (fetch s).1
    t.HAVE =
      if p.rst = true then false
      else if p.cmd = 3#3 ∧ s.RUN = true then !s.HAVE
      else if p.cmd = 2#3 ∧ s.RUN = false then false
      else if p.cmd = 4#3 ∧ s.RUN = true then false
      else s.HAVE

/-- R22: HOLD is written only by a PUSH taken with RUN = 1 and HAVE = 0. -/
def Obligations.HeldByteNextValue : Prop :=
  ∀ s t : State, step s = .next t →
    let p := (fetch s).1
    t.HOLD =
      if p.rst = false ∧ p.cmd = 3#3 ∧ s.RUN = true ∧ s.HAVE = false then p.inData else s.HOLD

/-- R32, R33: a configuration register is written only by a CFG taken while idle, one register and all
its fields at once; never in a run, and not by reset. -/
def Obligations.ConfigurationNextValue : Prop :=
  ∀ s t : State, step s = .next t →
    let p := (fetch s).1
    if p.rst = false ∧ p.cmd = 1#3 ∧ s.RUN = false then
      ∃ d, codeOfType d = cfgType p.cfgOp ∧
        t.CFG.get (channelOfNumber (cfgCh p.cfgOp)) =
          { ty := d, sf := cfgSf p.cfgOp, isf := cfgIsf p.cfgOp } ∧
        ∀ n, n ≠ channelOfNumber (cfgCh p.cfgOp) → t.CFG.get n = s.CFG.get n
    else t.CFG = s.CFG

/-- The bytes accepted and the Words formed: emptied by reset and by START from idle, extended by
accepted PUSHes, else kept. -/
def Obligations.BufferNextValue : Prop :=
  ∀ s t : State, step s = .next t →
    let p := (fetch s).1
    if p.rst = true ∨ (p.cmd = 2#3 ∧ s.RUN = false) then t.BUF = [] ∧ t.WORDS = [] ∧ t.pos = 0
    else if p.cmd = 3#3 ∧ s.RUN = true then
      t.BUF = s.BUF ++ [p.inData] ∧ t.pos = s.pos + 1 ∧
        t.WORDS = if s.HAVE then s.WORDS ++ [pairWord s.HOLD p.inData] else s.WORDS
    else t.BUF = s.BUF ∧ t.WORDS = s.WORDS ∧ t.pos = s.pos

/-- R38: a beat is presented exactly in a step that routes a Word, with the Word, no error, the
decoded value and the mark of its channel, and that record alone is appended to that channel's
output; in every other step there is no beat and no record is added. -/
def Obligations.BeatOfAStep : Prop :=
  ∀ s t : State, step s = .next t →
    let p := (fetch s).1
    let w := pairWord s.HOLD p.inData
    if p.rst = false ∧ p.cmd = 3#3 ∧ s.RUN = true ∧ s.HAVE = true then
      (∀ n, tagOf w = channelTag n →
        t.beat = some
            { outValid := channelMark n, outWord := w, outErr := 0#1
              outData := valueUnder (s.CFG.get n) w } ∧
        t.OUT.get n = s.OUT.get n ++ [.val w (valueUnder (s.CFG.get n) w)] ∧
        t.CHW.get n = s.CHW.get n ++ [w] ∧ t.DROPPED = s.DROPPED ∧
        ∀ k, k ≠ n → t.OUT.get k = s.OUT.get k ∧ t.CHW.get k = s.CHW.get k) ∧
      ((∀ n, tagOf w ≠ channelTag n) →
        t.beat = none ∧ t.OUT = s.OUT ∧ t.CHW = s.CHW ∧ t.DROPPED = s.DROPPED ++ [w])
    else
      t.beat = none ∧
        if p.rst = true ∨ (p.cmd = 2#3 ∧ s.RUN = false) then
          (∀ n, t.OUT.get n = [] ∧ t.CHW.get n = []) ∧ t.DROPPED = []
        else t.OUT = s.OUT ∧ t.CHW = s.CHW ∧ t.DROPPED = s.DROPPED

/-! ## Whole runs -/

/-- Every step keeps the invariant of the data model (R25, R35 to R37, R43). -/
def Obligations.StepKeepsDataModel : Prop :=
  ∀ s t : State, s.Inv → step s = .next t → t.Inv

/-- Word k of a run is made of bytes 2k and 2k + 1, there are ⌊n/2⌋ of them (R54, R90, R95). -/
def Obligations.AssemblePairsDisjointly : Prop :=
  ∀ bs : List Byte,
    (assemble bs).length = bs.length / 2 ∧
    ∀ (k : Nat) (hi lo : Byte), bs[2 * k]? = some hi → bs[2 * k + 1]? = some lo →
      (assemble bs)[k]? = some (pairWord hi lo)

/-- R160, the pipeline law: for a run from START to END, whatever NOPs and ignored commands stand
between its bytes, the records at END are the batch decode of the bytes pushed, under the
configuration in force at START; before END they are those of the bytes pushed so far, a prefix of
the final ones. -/
def Obligations.PipelineLaw : Prop :=
  ∀ (s : State) (first last : Input) (cmds rest : List Input), s.RUN = false →
    s.input = first :: (cmds ++ last :: rest) →
    first.rst = false → first.cmd = 2#3 → last.rst = false → last.cmd = 4#3 →
    (∀ p ∈ cmds, withinRun p = true) →
    let words (n : Channel) (j : Nat) := channelWords n (assemble (offeredBytes (cmds.take j)))
    (∃ t, Sys2Proof.core.run (cmds.length + 2) s = .next t ∧ t.RUN = false ∧ t.HAVE = false ∧
      t.CFG = s.CFG ∧ t.input = rest ∧
      ∀ n, (t.OUT.get n).map Record.value? =
          (decodeSeq (words n cmds.length) (s.CFG.get n)).map some ∧
        (t.OUT.get n).map Record.word = words n cmds.length) ∧
    ∀ j, j ≤ cmds.length →
      ∃ t, Sys2Proof.core.run (j + 1) s = .next t ∧ t.RUN = true ∧
        ∀ n, t.OUT.get n = recordSeq (words n j) (s.CFG.get n) ∧
          t.OUT.get n <+: recordSeq (words n cmds.length) (s.CFG.get n)

/-- The transactions of a run reach the core as one stream: the PUSH commands carry the bytes of
every transaction with byteCount > 0, concatenated in order, and nothing of the others. That a
transaction with fewer bytes than its byteCount gives all of them is the model's choice (log 17): the
spec has no such transaction. -/
def Obligations.TransactionsAreOneStream : Prop :=
  ∀ ts : List Transaction,
    offeredBytes (transactionCommands ts) =
      (ts.filter (fun t => decide (0 < t.byteCount))).flatMap
        (fun t => t.masterOutBytes.take t.byteCount.toNat) ∧
    (∀ p ∈ transactionCommands ts, withinRun p = true ∧ p.cmd = 3#3) ∧
    ∀ t : Transaction, t.byteCount ≤ 0 → t.commands = []

/-- The value of HOLD while HAVE = 0 is never read: two states that differ in nothing else step to
states that differ in nothing else (R22, U5). -/
def Obligations.UnreadHoldIsHarmless : Prop :=
  ∀ s t : State, s.Agrees t → outcomesAgree (step s) (step t)

/-- R159: a run depends on its bytes and on the configuration only. From any two idle states with the
same configuration and the same commands ahead, START first, every later state is the same up to a
byte that is not held, and so is every refusal. -/
def Obligations.RunForgetsThePast : Prop :=
  ∀ (s t : State) (first : Input) (rest : List Input), s.RUN = false → t.RUN = false →
    s.CFG = t.CFG → s.input = first :: rest → t.input = first :: rest → first.rst = false →
    first.cmd = 2#3 →
    ∀ k : Nat, outcomesAgree (Sys2Proof.core.run (k + 1) s) (Sys2Proof.core.run (k + 1) t)

/-! ## The exception and the text level -/

/-- R166, R167: raising ParseError presents the error beat, puts the `Err` record in the place of the
value, and changes nothing else. -/
def Obligations.ParseErrorEntry : Prop :=
  ∀ (s : State) (n : Channel) (w : Word),
    raiseParseError n w s =
      { s with
        OUT := s.OUT.set n (s.OUT.get n ++ [.err w 1#8])
        beat := some
          { outValid := channelMark n, outWord := w, outErr := 1#1
            outData := (0#56 ++ 1#8 : BitVec (56 + 8)) } } ∧
    (raiseParseError n w s).idx n = s.idx n + 1 ∧
    ∀ k, k ≠ n → (raiseParseError n w s).OUT.get k = s.OUT.get k

/-- The text-level assembler and demultiplexer are the binary ones through `tok` and `text` (R91,
R110), and `text` loses nothing (R10). -/
def Obligations.TextLevelMirrorsTheBinary : Prop :=
  (∀ bs : List Byte, assembleTokens (bs.map tok) = (assemble bs).map textOf) ∧
  (∀ v w : Word, textOf v = textOf w → v = w) ∧
  (∀ (w : Word) (n : Channel), textChannel (textOf w) = some n ↔ tagOf w = channelTag n)

/-- For a well-formed word text the text-level decode gives the binary value (R129). -/
def Obligations.TextDecodeAgrees : Prop :=
  ∀ (n : Channel) (i : Nat) (w : Word) (c : ChannelConfig),
    decodeText n i (textOf w) c = .ok (valueUnder c w)

/-- The residual parses exactly when its three characters are hex characters, `0-9`, `a-f` or `A-F`,
and then its number goes through steps 3 to 7; else ParseError is raised with its channel, index and
text (R129, R166). -/
def Obligations.MalformedTextRaisesParseError : Prop :=
  (∀ (c : Char) (k : Nat), hexval c = some k ↔
    k < 16 ∧ (c = hexdigit (BitVec.ofNat 4 k) ∨ (10 ≤ k ∧ c = Char.ofNat (55 + k)))) ∧
  ∀ (n : Channel) (i : Nat) (t : WordText) (c : ChannelConfig),
    ((hexval t.c1 = none ∨ hexval t.c2 = none ∨ hexval t.c3 = none) →
      parseResidual t = none ∧
      decodeText n i t c = .error { channel := n, index := i, text := t }) ∧
    ∀ x y z : Nat, hexval t.c1 = some x → hexval t.c2 = some y → hexval t.c3 = some z →
      parseResidual t = some (256 * x + 16 * y + z) ∧
      decodeText n i t c = .ok (decodeMagnitude (256 * x + 16 * y + z) c.ty c.sf c.isf)

/-- R167: in a text-level run each routed word text leaves one record in its own place, `Err` with
cause code 1 where it does not parse and `Val` with its decoded value where it does, and no other word
text is affected; dropped word texts are never parsed. That the reports are kept in one list beside the
records is the model's choice (log 21). -/
def Obligations.ParseErrorIsScoped : Prop :=
  ∀ (cfg : PerChannel ChannelConfig) (ts : List WordText),
    let r := textRun cfg ts
    (∀ n, r.CHW.get n = ts.filter (fun t => decide (textChannel t = some n)) ∧
      r.OUT.get n = (r.CHW.get n).map (fun t =>
        match parseResidual t with
        | none => .err t 1#8
        | some v => .val t (decodeMagnitude v (cfg.get n).ty (cfg.get n).sf (cfg.get n).isf))) ∧
    r.DROPPED = ts.filter (fun t => decide (textChannel t = none)) ∧
    ∀ e : ParseError, e ∈ r.errors ↔
      (r.CHW.get e.channel)[e.index]? = some e.text ∧ parseResidual e.text = none
end

