-- ==== Sys2Proof/Laws/Batch.lean ====
section
/-! SUPPORT. The batch assembler when one more byte arrives. -/

namespace Sys2Proof.Machine

theorem assemble_append_of_even (l : List Byte) (h : l.length % 2 = 0) (k : List Byte) :
    assemble (l ++ k) = assemble l ++ assemble k := by
  fun_induction assemble l with
  | case1 hi lo rest ih =>
    have : rest.length % 2 = 0 := by simp only [List.length_cons] at h; omega
    simp [assemble, ih this]
  | case2 l hl =>
    match l, h, hl with
    | [], _, _ => rfl
    | [x], h, _ => simp at h
    | x :: y :: r, _, hl => exact absurd rfl (hl x y r)

/-- A byte at an even position forms no Word yet. -/
theorem assemble_snoc_even (l : List Byte) (b : Byte) (h : l.length % 2 = 0) :
    assemble (l ++ [b]) = assemble l := by
  simp [assemble_append_of_even l h, assemble]

/-- A byte at an odd position forms the Word of the byte before it and itself. -/
theorem assemble_snoc_odd (l : List Byte) (x b : Byte) (h : l.length % 2 = 1)
    (hx : l.getLast? = some x) : assemble (l ++ [b]) = assemble l ++ [pairWord x b] := by
  obtain ⟨ys, rfl⟩ := List.getLast?_eq_some_iff.mp hx
  have hy : ys.length % 2 = 0 := by simp at h; omega
  simp [List.append_assoc, assemble_append_of_even ys hy, assemble]

end Sys2Proof.Machine
end

