-- ==== Sys2Proof/Laws/Decode.lean ====
section
/-! SUPPORT. The fields of the formats: taking apart what was put together, and the decoder's answers
by case. -/

namespace Sys2Proof

/-! ## Slices of a concatenation, at any widths -/

theorem slice_append_high {a b : Nat} (x : BitVec a) (y : BitVec b) :
    (x ++ y).extractLsb' b a = x := by
  ext i hi
  simp [BitVec.getLsbD_append, BitVec.getLsbD_eq_getElem hi]

theorem slice_append_low {a b : Nat} (x : BitVec a) (y : BitVec b) :
    (x ++ y).extractLsb' 0 b = y := by
  ext i hi
  simp [BitVec.getLsbD_append, hi]

theorem append_slices {a b : Nat} (w : BitVec (a + b)) :
    w.extractLsb' b a ++ w.extractLsb' 0 b = w := by
  ext i hi
  rw [BitVec.getElem_append]
  split
  · simp [BitVec.getLsbD_eq_getElem hi]
  · have : b + (i - b) = i := by omega
    simp [this, BitVec.getLsbD_eq_getElem hi]

/-! ## Words -/

@[simp] theorem tagOf_wordOf (t : Tag) (m : Mag) : tagOf (wordOf t m) = t :=
  slice_append_high (a := 4) (b := 12) t m

@[simp] theorem magOf_wordOf (t : Tag) (m : Mag) : magOf (wordOf t m) = m :=
  slice_append_low (a := 4) (b := 12) t m

@[simp] theorem wordOf_tagOf_magOf (w : Word) : wordOf (tagOf w) (magOf w) = w :=
  append_slices (a := 4) (b := 12) w

@[simp] theorem hiByte_pairWord (hi lo : Byte) : hiByte (pairWord hi lo) = hi :=
  slice_append_high (a := 8) (b := 8) hi lo

@[simp] theorem loByte_pairWord (hi lo : Byte) : loByte (pairWord hi lo) = lo :=
  slice_append_low (a := 8) (b := 8) hi lo

@[simp] theorem pairWord_hiByte_loByte (w : Word) : pairWord (hiByte w) (loByte w) = w :=
  append_slices (a := 8) (b := 8) w

/-! ## The operand of CFG -/

theorem slice_of_high_slice {a b : Nat} (x : BitVec a) (y : BitVec b) (k n : Nat) :
    (x ++ y).extractLsb' (b + k) n = x.extractLsb' k n := by
  ext i hi
  simp [BitVec.getLsbD_append, Nat.add_assoc]

@[simp] theorem cfgIsf_cfgOperand (ch : BitVec 2) (ty : BitVec 3) (sf : BitVec 6) (isf : F64) :
    cfgIsf (cfgOperand ch ty sf isf) = isf :=
  slice_append_low (a := 11) (b := 64) (ch ++ ty ++ sf) isf

@[simp] theorem cfgSf_cfgOperand (ch : BitVec 2) (ty : BitVec 3) (sf : BitVec 6) (isf : F64) :
    cfgSf (cfgOperand ch ty sf isf) = sf :=
  (slice_of_high_slice (a := 11) (b := 64) (ch ++ ty ++ sf) isf 0 6).trans
    (slice_append_low (a := 5) (b := 6) (ch ++ ty) sf)

@[simp] theorem cfgType_cfgOperand (ch : BitVec 2) (ty : BitVec 3) (sf : BitVec 6) (isf : F64) :
    cfgType (cfgOperand ch ty sf isf) = ty :=
  (slice_of_high_slice (a := 11) (b := 64) (ch ++ ty ++ sf) isf 6 3).trans
    ((slice_of_high_slice (a := 5) (b := 6) (ch ++ ty) sf 0 3).trans
      (slice_append_low (a := 2) (b := 3) ch ty))

@[simp] theorem cfgCh_cfgOperand (ch : BitVec 2) (ty : BitVec 3) (sf : BitVec 6) (isf : F64) :
    cfgCh (cfgOperand ch ty sf isf) = ch :=
  (slice_of_high_slice (a := 11) (b := 64) (ch ++ ty ++ sf) isf 9 2).trans
    ((slice_of_high_slice (a := 5) (b := 6) (ch ++ ty) sf 3 2).trans
      (slice_append_high (a := 2) (b := 3) ch ty))

/-! ## Codes -/

/-- The legal type codes are those of a TypeDescriptor (R76, R80). -/
theorem typeLegal_iff (c : BitVec 3) : typeLegal c = (typeOfCode c).isSome := by
  revert c; decide

@[simp] theorem typeOfCode_codeOfType (ty : TypeDescriptor) :
    typeOfCode (codeOfType ty) = some ty := by
  cases ty <;> decide

@[simp] theorem channelOfNumber_numberOfChannel (n : Channel) :
    channelOfNumber (numberOfChannel n) = n := by
  cases n <;> decide

/-! ## Commands -/

/-- What a command decodes to, by its code (R75, R80). -/
theorem decodeCommand_cases {p : Input} {i : Instr} (h : decodeCommand p = .ok i) :
    (p.cmd = 0 ∧ i = .nop) ∨ (p.cmd = 1 ∧ decodeCfg p.cfgOp = .ok i) ∨ (p.cmd = 2 ∧ i = .start) ∨
      (p.cmd = 3 ∧ i = .push p.inData) ∨ (p.cmd = 4 ∧ i = .endRun) := by
  unfold decodeCommand at h
  repeat' split at h
  all_goals first
    | (cases h; done)
    | (cases h; simp_all)
    | simp_all

/-- A CFG that decodes has a legal type code and a finite scale (R147). -/
theorem decodeCfg_ok {op : BitVec 75} {i : Instr} (h : decodeCfg op = .ok i) :
    typeLegal (cfgType op) = true ∧ scaleFinite (cfgIsf op) = true ∧
      i = .cfg (cfgCh op) (cfgType op) (cfgSf op) (cfgIsf op) := by
  unfold decodeCfg at h
  split at h
  · cases h
  · split at h
    · cases h
    · cases h; simp_all

end Sys2Proof
end

