-- ==== Sys2Proof/Laws/PerChannel.lean ====
section
/-! SUPPORT. Reading per-channel storage after writing it. -/

namespace Sys2Proof.Machine

variable {α : Type}

@[simp] theorem get_all (a : α) (n : Channel) : (PerChannel.all a).get n = a := by
  cases n <;> rfl

@[simp] theorem get_set_same (p : PerChannel α) (n : Channel) (a : α) :
    (p.set n a).get n = a := by
  cases n <;> rfl

theorem get_set_other (p : PerChannel α) {n k : Channel} (a : α) (h : k ≠ n) :
    (p.set n a).get k = p.get k := by
  cases n <;> cases k <;> first | rfl | exact absurd rfl h

@[simp] theorem get_push_same (p : PerChannel (List α)) (n : Channel) (a : α) :
    (p.push n a).get n = p.get n ++ [a] := get_set_same ..

theorem get_push_other (p : PerChannel (List α)) {n k : Channel} (a : α) (h : k ≠ n) :
    (p.push n a).get k = p.get k := get_set_other _ _ h

theorem get_set (p : PerChannel α) (n k : Channel) (a : α) :
    (p.set n a).get k = if k = n then a else p.get k := by
  cases n <;> cases k <;> rfl

theorem get_push (p : PerChannel (List α)) (n k : Channel) (a : α) :
    (p.push n a).get k = if k = n then p.get k ++ [a] else p.get k := by
  cases n <;> cases k <;> rfl

/-- Per-channel storage is what it holds for each channel. -/
theorem perChannel_ext {p q : PerChannel α} (h : ∀ n, p.get n = q.get n) : p = q := by
  cases p
  cases q
  simpa [PerChannel.get] using ⟨h .ch1, h .ch2, h .ch3, h .ch4⟩

end Sys2Proof.Machine
end

