-- ==== Sys2Proof/Laws/PerInstr.lean ====
section
/-! SUPPORT. The per-instruction family `OpcodeRow`: the encoding of every instruction selects its own
row of spec/opcode_table.json (R84). -/

namespace Sys2Proof.Laws.OpcodeRow

/-- A row of the table: its format and its match; the mask is the format's (R84). -/
inductive Row where
  | formatC (pattern : BitVec 3)
  | formatW (pattern : BitVec 16)
  | formatT (pattern : BitVec 3)
  deriving DecidableEq, Repr

/-- The row of each instruction, as the table has it. -/
def rowOf : Instr → Row
  | .nop => .formatC 0x0#3
  | .cfg _ _ _ _ => .formatC 0x1#3
  | .start => .formatC 0x2#3
  | .push _ => .formatC 0x3#3
  | .endRun => .formatC 0x4#3
  | .drop0 _ => .formatW 0x0000#16
  | .drop1 _ => .formatW 0x1000#16
  | .drop2 _ => .formatW 0x2000#16
  | .route1 _ => .formatW 0x3000#16
  | .drop4 _ => .formatW 0x4000#16
  | .drop5 _ => .formatW 0x5000#16
  | .drop6 _ => .formatW 0x6000#16
  | .route2 _ => .formatW 0x7000#16
  | .drop8 _ => .formatW 0x8000#16
  | .drop9 _ => .formatW 0x9000#16
  | .dropA _ => .formatW 0xA000#16
  | .route3 _ => .formatW 0xB000#16
  | .dropC _ => .formatW 0xC000#16
  | .dropD _ => .formatW 0xD000#16
  | .route4 _ => .formatW 0xE000#16
  | .dropF _ => .formatW 0xF000#16
  | .decU16 _ _ => .formatT 0x0#3
  | .decS16 _ _ => .formatT 0x1#3
  | .decU32 _ _ => .formatT 0x2#3
  | .decS32 _ _ => .formatT 0x3#3
  | .decU16O _ _ => .formatT 0x4#3

/-- An item selects a row when its bits under the mask are the row's match (R84). -/
def Selects : Item → Row → Prop
  | .command p, .formatC pattern => p.cmd &&& 0x7#3 = pattern
  | .word w, .formatW pattern => w &&& 0xF000#16 = pattern
  | .typed code _ _, .formatT pattern => code &&& 0x7#3 = pattern
  | _, _ => False

def Statement (i : Instr) : Prop := Selects (encode i) (rowOf i)

/-- The mask of format W keeps the tag and clears the magnitude. -/
theorem mask_word (t : Tag) (m : Mag) : wordOf t m &&& 0xF000#16 = wordOf t 0#12 := by
  have tag_kept : t &&& 0xF#4 = t := BitVec.and_allOnes (x := t)
  have h : (t ++ m) &&& (0xF#4 ++ 0#12) = t ++ 0#12 := by
    rw [BitVec.and_append, tag_kept, BitVec.and_zero]
  exact h

theorem nop : Statement .nop := rfl
theorem cfg (ch : BitVec 2) (ty : BitVec 3) (sf : BitVec 6) (isf : F64) : Statement (.cfg ch ty sf isf) :=
  show (1#3 &&& 0x7#3 : BitVec 3) = 0x1#3 by decide
theorem start : Statement .start := rfl
theorem push (b : Byte) : Statement (.push b) :=
  show (3#3 &&& 0x7#3 : BitVec 3) = 0x3#3 by decide
theorem endRun : Statement .endRun := rfl
theorem drop0 (m : Mag) : Statement (.drop0 m) := (mask_word _ m).trans rfl
theorem drop1 (m : Mag) : Statement (.drop1 m) := (mask_word _ m).trans rfl
theorem drop2 (m : Mag) : Statement (.drop2 m) := (mask_word _ m).trans rfl
theorem route1 (m : Mag) : Statement (.route1 m) := (mask_word _ m).trans rfl
theorem drop4 (m : Mag) : Statement (.drop4 m) := (mask_word _ m).trans rfl
theorem drop5 (m : Mag) : Statement (.drop5 m) := (mask_word _ m).trans rfl
theorem drop6 (m : Mag) : Statement (.drop6 m) := (mask_word _ m).trans rfl
theorem route2 (m : Mag) : Statement (.route2 m) := (mask_word _ m).trans rfl
theorem drop8 (m : Mag) : Statement (.drop8 m) := (mask_word _ m).trans rfl
theorem drop9 (m : Mag) : Statement (.drop9 m) := (mask_word _ m).trans rfl
theorem dropA (m : Mag) : Statement (.dropA m) := (mask_word _ m).trans rfl
theorem route3 (m : Mag) : Statement (.route3 m) := (mask_word _ m).trans rfl
theorem dropC (m : Mag) : Statement (.dropC m) := (mask_word _ m).trans rfl
theorem dropD (m : Mag) : Statement (.dropD m) := (mask_word _ m).trans rfl
theorem route4 (m : Mag) : Statement (.route4 m) := (mask_word _ m).trans rfl
theorem dropF (m : Mag) : Statement (.dropF m) := (mask_word _ m).trans rfl
theorem decU16 (n : Channel) (w : Word) : Statement (.decU16 n w) := rfl
theorem decS16 (n : Channel) (w : Word) : Statement (.decS16 n w) := rfl
theorem decU32 (n : Channel) (w : Word) : Statement (.decU32 n w) := rfl
theorem decS32 (n : Channel) (w : Word) : Statement (.decS32 n w) := rfl
theorem decU16O (n : Channel) (w : Word) : Statement (.decU16O n w) := rfl

end Sys2Proof.Laws.OpcodeRow
end

