-- ==== Sys2Proof/Laws/State.lean ====
section
/-! SUPPORT. What each update of the state does to each field: one lemma per field per update, so that
no later proof unfolds a record update. -/

namespace Sys2Proof.Machine

variable (s : State)

/-! ## noBeat -/

@[simp] theorem noBeat_RUN : s.noBeat.RUN = s.RUN := rfl
@[simp] theorem noBeat_HAVE : s.noBeat.HAVE = s.HAVE := rfl
@[simp] theorem noBeat_HOLD : s.noBeat.HOLD = s.HOLD := rfl
@[simp] theorem noBeat_CFG : s.noBeat.CFG = s.CFG := rfl
@[simp] theorem noBeat_BUF : s.noBeat.BUF = s.BUF := rfl
@[simp] theorem noBeat_WORDS : s.noBeat.WORDS = s.WORDS := rfl
@[simp] theorem noBeat_CHW : s.noBeat.CHW = s.CHW := rfl
@[simp] theorem noBeat_DROPPED : s.noBeat.DROPPED = s.DROPPED := rfl
@[simp] theorem noBeat_OUT : s.noBeat.OUT = s.OUT := rfl
@[simp] theorem noBeat_input : s.noBeat.input = s.input := rfl
@[simp] theorem noBeat_beat : s.noBeat.beat = none := rfl

/-! ## setCfg -/

@[simp] theorem setCfg_RUN (n : Channel) (c : ChannelConfig) : (s.setCfg n c).RUN = s.RUN := rfl
@[simp] theorem setCfg_HAVE (n : Channel) (c : ChannelConfig) : (s.setCfg n c).HAVE = s.HAVE := rfl
@[simp] theorem setCfg_HOLD (n : Channel) (c : ChannelConfig) : (s.setCfg n c).HOLD = s.HOLD := rfl
@[simp] theorem setCfg_CFG (n : Channel) (c : ChannelConfig) : (s.setCfg n c).CFG = s.CFG.set n c := rfl
@[simp] theorem setCfg_BUF (n : Channel) (c : ChannelConfig) : (s.setCfg n c).BUF = s.BUF := rfl
@[simp] theorem setCfg_WORDS (n : Channel) (c : ChannelConfig) : (s.setCfg n c).WORDS = s.WORDS := rfl
@[simp] theorem setCfg_CHW (n : Channel) (c : ChannelConfig) : (s.setCfg n c).CHW = s.CHW := rfl
@[simp] theorem setCfg_DROPPED (n : Channel) (c : ChannelConfig) : (s.setCfg n c).DROPPED = s.DROPPED := rfl
@[simp] theorem setCfg_OUT (n : Channel) (c : ChannelConfig) : (s.setCfg n c).OUT = s.OUT := rfl
@[simp] theorem setCfg_input (n : Channel) (c : ChannelConfig) : (s.setCfg n c).input = s.input := rfl
@[simp] theorem setCfg_beat (n : Channel) (c : ChannelConfig) : (s.setCfg n c).beat = s.beat := rfl

/-! ## latch -/

@[simp] theorem latch_RUN (b : Byte) : (s.latch b).RUN = s.RUN := rfl
@[simp] theorem latch_HAVE (b : Byte) : (s.latch b).HAVE = true := rfl
@[simp] theorem latch_HOLD (b : Byte) : (s.latch b).HOLD = b := rfl
@[simp] theorem latch_CFG (b : Byte) : (s.latch b).CFG = s.CFG := rfl
@[simp] theorem latch_BUF (b : Byte) : (s.latch b).BUF = s.BUF ++ [b] := rfl
@[simp] theorem latch_WORDS (b : Byte) : (s.latch b).WORDS = s.WORDS := rfl
@[simp] theorem latch_CHW (b : Byte) : (s.latch b).CHW = s.CHW := rfl
@[simp] theorem latch_DROPPED (b : Byte) : (s.latch b).DROPPED = s.DROPPED := rfl
@[simp] theorem latch_OUT (b : Byte) : (s.latch b).OUT = s.OUT := rfl
@[simp] theorem latch_input (b : Byte) : (s.latch b).input = s.input := rfl
@[simp] theorem latch_beat (b : Byte) : (s.latch b).beat = s.beat := rfl

/-! ## formWord -/

@[simp] theorem formWord_RUN (b : Byte) (w : Word) : (s.formWord b w).RUN = s.RUN := rfl
@[simp] theorem formWord_HAVE (b : Byte) (w : Word) : (s.formWord b w).HAVE = false := rfl
@[simp] theorem formWord_HOLD (b : Byte) (w : Word) : (s.formWord b w).HOLD = s.HOLD := rfl
@[simp] theorem formWord_CFG (b : Byte) (w : Word) : (s.formWord b w).CFG = s.CFG := rfl
@[simp] theorem formWord_BUF (b : Byte) (w : Word) : (s.formWord b w).BUF = s.BUF ++ [b] := rfl
@[simp] theorem formWord_WORDS (b : Byte) (w : Word) : (s.formWord b w).WORDS = s.WORDS ++ [w] := rfl
@[simp] theorem formWord_CHW (b : Byte) (w : Word) : (s.formWord b w).CHW = s.CHW := rfl
@[simp] theorem formWord_DROPPED (b : Byte) (w : Word) : (s.formWord b w).DROPPED = s.DROPPED := rfl
@[simp] theorem formWord_OUT (b : Byte) (w : Word) : (s.formWord b w).OUT = s.OUT := rfl
@[simp] theorem formWord_input (b : Byte) (w : Word) : (s.formWord b w).input = s.input := rfl
@[simp] theorem formWord_beat (b : Byte) (w : Word) : (s.formWord b w).beat = s.beat := rfl

/-! ## routed -/

@[simp] theorem routed_RUN (n : Channel) (w : Word) : (s.routed n w).RUN = s.RUN := rfl
@[simp] theorem routed_HAVE (n : Channel) (w : Word) : (s.routed n w).HAVE = s.HAVE := rfl
@[simp] theorem routed_HOLD (n : Channel) (w : Word) : (s.routed n w).HOLD = s.HOLD := rfl
@[simp] theorem routed_CFG (n : Channel) (w : Word) : (s.routed n w).CFG = s.CFG := rfl
@[simp] theorem routed_BUF (n : Channel) (w : Word) : (s.routed n w).BUF = s.BUF := rfl
@[simp] theorem routed_WORDS (n : Channel) (w : Word) : (s.routed n w).WORDS = s.WORDS := rfl
@[simp] theorem routed_CHW (n : Channel) (w : Word) : (s.routed n w).CHW = s.CHW.push n w := rfl
@[simp] theorem routed_DROPPED (n : Channel) (w : Word) : (s.routed n w).DROPPED = s.DROPPED := rfl
@[simp] theorem routed_OUT (n : Channel) (w : Word) : (s.routed n w).OUT = s.OUT := rfl
@[simp] theorem routed_input (n : Channel) (w : Word) : (s.routed n w).input = s.input := rfl
@[simp] theorem routed_beat (n : Channel) (w : Word) : (s.routed n w).beat = s.beat := rfl

/-! ## dropped -/

@[simp] theorem dropped_RUN (w : Word) : (s.dropped w).RUN = s.RUN := rfl
@[simp] theorem dropped_HAVE (w : Word) : (s.dropped w).HAVE = s.HAVE := rfl
@[simp] theorem dropped_HOLD (w : Word) : (s.dropped w).HOLD = s.HOLD := rfl
@[simp] theorem dropped_CFG (w : Word) : (s.dropped w).CFG = s.CFG := rfl
@[simp] theorem dropped_BUF (w : Word) : (s.dropped w).BUF = s.BUF := rfl
@[simp] theorem dropped_WORDS (w : Word) : (s.dropped w).WORDS = s.WORDS := rfl
@[simp] theorem dropped_CHW (w : Word) : (s.dropped w).CHW = s.CHW := rfl
@[simp] theorem dropped_DROPPED (w : Word) : (s.dropped w).DROPPED = s.DROPPED ++ [w] := rfl
@[simp] theorem dropped_OUT (w : Word) : (s.dropped w).OUT = s.OUT := rfl
@[simp] theorem dropped_input (w : Word) : (s.dropped w).input = s.input := rfl
@[simp] theorem dropped_beat (w : Word) : (s.dropped w).beat = s.beat := rfl

/-! ## clearHistories -/

@[simp] theorem clearHistories_RUN : s.clearHistories.RUN = s.RUN := rfl
@[simp] theorem clearHistories_HAVE : s.clearHistories.HAVE = s.HAVE := rfl
@[simp] theorem clearHistories_HOLD : s.clearHistories.HOLD = s.HOLD := rfl
@[simp] theorem clearHistories_CFG : s.clearHistories.CFG = s.CFG := rfl
@[simp] theorem clearHistories_BUF : s.clearHistories.BUF = [] := rfl
@[simp] theorem clearHistories_WORDS : s.clearHistories.WORDS = [] := rfl
@[simp] theorem clearHistories_CHW : s.clearHistories.CHW = PerChannel.all [] := rfl
@[simp] theorem clearHistories_DROPPED : s.clearHistories.DROPPED = [] := rfl
@[simp] theorem clearHistories_OUT : s.clearHistories.OUT = PerChannel.all [] := rfl
@[simp] theorem clearHistories_input : s.clearHistories.input = s.input := rfl
@[simp] theorem clearHistories_beat : s.clearHistories.beat = s.beat := rfl

/-! ## openRun -/

@[simp] theorem openRun_RUN : s.openRun.RUN = true := rfl
@[simp] theorem openRun_HAVE : s.openRun.HAVE = false := rfl
@[simp] theorem openRun_HOLD : s.openRun.HOLD = s.HOLD := rfl
@[simp] theorem openRun_CFG : s.openRun.CFG = s.CFG := rfl
@[simp] theorem openRun_BUF : s.openRun.BUF = s.BUF := rfl
@[simp] theorem openRun_WORDS : s.openRun.WORDS = s.WORDS := rfl
@[simp] theorem openRun_CHW : s.openRun.CHW = s.CHW := rfl
@[simp] theorem openRun_DROPPED : s.openRun.DROPPED = s.DROPPED := rfl
@[simp] theorem openRun_OUT : s.openRun.OUT = s.OUT := rfl
@[simp] theorem openRun_input : s.openRun.input = s.input := rfl
@[simp] theorem openRun_beat : s.openRun.beat = s.beat := rfl

/-! ## closeRun -/

@[simp] theorem closeRun_RUN : s.closeRun.RUN = false := rfl
@[simp] theorem closeRun_HAVE : s.closeRun.HAVE = false := rfl
@[simp] theorem closeRun_HOLD : s.closeRun.HOLD = s.HOLD := rfl
@[simp] theorem closeRun_CFG : s.closeRun.CFG = s.CFG := rfl
@[simp] theorem closeRun_BUF : s.closeRun.BUF = s.BUF := rfl
@[simp] theorem closeRun_WORDS : s.closeRun.WORDS = s.WORDS := rfl
@[simp] theorem closeRun_CHW : s.closeRun.CHW = s.CHW := rfl
@[simp] theorem closeRun_DROPPED : s.closeRun.DROPPED = s.DROPPED := rfl
@[simp] theorem closeRun_OUT : s.closeRun.OUT = s.OUT := rfl
@[simp] theorem closeRun_input : s.closeRun.input = s.input := rfl
@[simp] theorem closeRun_beat : s.closeRun.beat = s.beat := rfl

/-! ## emit -/

@[simp] theorem emit_RUN (n : Channel) (r : Record Word) : (emit n r s).RUN = s.RUN := rfl
@[simp] theorem emit_HAVE (n : Channel) (r : Record Word) : (emit n r s).HAVE = s.HAVE := rfl
@[simp] theorem emit_HOLD (n : Channel) (r : Record Word) : (emit n r s).HOLD = s.HOLD := rfl
@[simp] theorem emit_CFG (n : Channel) (r : Record Word) : (emit n r s).CFG = s.CFG := rfl
@[simp] theorem emit_BUF (n : Channel) (r : Record Word) : (emit n r s).BUF = s.BUF := rfl
@[simp] theorem emit_WORDS (n : Channel) (r : Record Word) : (emit n r s).WORDS = s.WORDS := rfl
@[simp] theorem emit_CHW (n : Channel) (r : Record Word) : (emit n r s).CHW = s.CHW := rfl
@[simp] theorem emit_DROPPED (n : Channel) (r : Record Word) : (emit n r s).DROPPED = s.DROPPED := rfl
@[simp] theorem emit_OUT (n : Channel) (r : Record Word) : (emit n r s).OUT = s.OUT.push n r := rfl
@[simp] theorem emit_input (n : Channel) (r : Record Word) : (emit n r s).input = s.input := rfl
@[simp] theorem emit_beat (n : Channel) (r : Record Word) : (emit n r s).beat = some (beatOf n r) := rfl

/-! ## raiseParseError -/

@[simp] theorem raiseParseError_RUN (n : Channel) (w : Word) : (raiseParseError n w s).RUN = s.RUN := rfl
@[simp] theorem raiseParseError_HAVE (n : Channel) (w : Word) : (raiseParseError n w s).HAVE = s.HAVE := rfl
@[simp] theorem raiseParseError_HOLD (n : Channel) (w : Word) : (raiseParseError n w s).HOLD = s.HOLD := rfl
@[simp] theorem raiseParseError_CFG (n : Channel) (w : Word) : (raiseParseError n w s).CFG = s.CFG := rfl
@[simp] theorem raiseParseError_BUF (n : Channel) (w : Word) : (raiseParseError n w s).BUF = s.BUF := rfl
@[simp] theorem raiseParseError_WORDS (n : Channel) (w : Word) : (raiseParseError n w s).WORDS = s.WORDS := rfl
@[simp] theorem raiseParseError_CHW (n : Channel) (w : Word) : (raiseParseError n w s).CHW = s.CHW := rfl
@[simp] theorem raiseParseError_DROPPED (n : Channel) (w : Word) : (raiseParseError n w s).DROPPED = s.DROPPED := rfl
@[simp] theorem raiseParseError_OUT (n : Channel) (w : Word) : (raiseParseError n w s).OUT = s.OUT.push n (.err w parseErrorCause) := rfl
@[simp] theorem raiseParseError_input (n : Channel) (w : Word) : (raiseParseError n w s).input = s.input := rfl
@[simp] theorem raiseParseError_beat (n : Channel) (w : Word) : (raiseParseError n w s).beat = some (beatOf n (.err w parseErrorCause)) := rfl

/-! ## applyReset -/

@[simp] theorem applyReset_RUN : (applyReset s).RUN = false := rfl
@[simp] theorem applyReset_HAVE : (applyReset s).HAVE = false := rfl
@[simp] theorem applyReset_HOLD : (applyReset s).HOLD = s.HOLD := rfl
@[simp] theorem applyReset_CFG : (applyReset s).CFG = s.CFG := rfl
@[simp] theorem applyReset_BUF : (applyReset s).BUF = [] := rfl
@[simp] theorem applyReset_WORDS : (applyReset s).WORDS = [] := rfl
@[simp] theorem applyReset_CHW : (applyReset s).CHW = PerChannel.all [] := rfl
@[simp] theorem applyReset_DROPPED : (applyReset s).DROPPED = [] := rfl
@[simp] theorem applyReset_OUT : (applyReset s).OUT = PerChannel.all [] := rfl
@[simp] theorem applyReset_input : (applyReset s).input = s.input := rfl
@[simp] theorem applyReset_beat : (applyReset s).beat = none := rfl

/-! ## placeCommand -/

@[simp] theorem placeCommand_RUN (p : Input) : (placeCommand p s).RUN = s.RUN := rfl
@[simp] theorem placeCommand_HAVE (p : Input) : (placeCommand p s).HAVE = s.HAVE := rfl
@[simp] theorem placeCommand_HOLD (p : Input) : (placeCommand p s).HOLD = s.HOLD := rfl
@[simp] theorem placeCommand_CFG (p : Input) : (placeCommand p s).CFG = s.CFG := rfl
@[simp] theorem placeCommand_BUF (p : Input) : (placeCommand p s).BUF = s.BUF := rfl
@[simp] theorem placeCommand_WORDS (p : Input) : (placeCommand p s).WORDS = s.WORDS := rfl
@[simp] theorem placeCommand_CHW (p : Input) : (placeCommand p s).CHW = s.CHW := rfl
@[simp] theorem placeCommand_DROPPED (p : Input) : (placeCommand p s).DROPPED = s.DROPPED := rfl
@[simp] theorem placeCommand_OUT (p : Input) : (placeCommand p s).OUT = s.OUT := rfl
@[simp] theorem placeCommand_input (p : Input) : (placeCommand p s).input = p :: s.input := rfl
@[simp] theorem placeCommand_beat (p : Input) : (placeCommand p s).beat = s.beat := rfl

/-! ## placeWord -/

@[simp] theorem placeWord_RUN (w : Word) : (placeWord w s).RUN = true := rfl
@[simp] theorem placeWord_HAVE (w : Word) : (placeWord w s).HAVE = true := rfl
@[simp] theorem placeWord_HOLD (w : Word) : (placeWord w s).HOLD = hiByte w := rfl
@[simp] theorem placeWord_CFG (w : Word) : (placeWord w s).CFG = s.CFG := rfl
@[simp] theorem placeWord_BUF (w : Word) : (placeWord w s).BUF = s.BUF := rfl
@[simp] theorem placeWord_WORDS (w : Word) : (placeWord w s).WORDS = s.WORDS := rfl
@[simp] theorem placeWord_CHW (w : Word) : (placeWord w s).CHW = s.CHW := rfl
@[simp] theorem placeWord_DROPPED (w : Word) : (placeWord w s).DROPPED = s.DROPPED := rfl
@[simp] theorem placeWord_OUT (w : Word) : (placeWord w s).OUT = s.OUT := rfl
@[simp] theorem placeWord_input (w : Word) : (placeWord w s).input = commandInput 3#3 (loByte w) 0#75 :: s.input := rfl
@[simp] theorem placeWord_beat (w : Word) : (placeWord w s).beat = s.beat := rfl

end Sys2Proof.Machine
end

