-- ==== Sys2Proof/Laws/Step.lean ====
section
/-! SUPPORT. What each meaning does, said once, and what one step can do. -/

namespace Sys2Proof.Machine

/-! ## The decode stage -/

/-- The stage runs exactly the operation that the channel's TYPE selects. -/
theorem decodeStage_eq (n : Channel) (w : Word) (s : State) :
    decodeStage n w s = decodeAs (s.CFG.get n).ty n w s := by
  unfold decodeStage
  split <;> simp_all [execDecU16, execDecS16, execDecU32, execDecS32, execDecU16O]

theorem decodeStage_run {s : State} (h : s.RUN = true) (n : Channel) (w : Word) :
    decodeStage n w s = .next (emit n (.val w (valueUnder (s.CFG.get n) w)) s) := by
  simp [decodeStage_eq, decodeAs, State.selects, h, valueUnder]

/-! ## The demultiplexer -/

theorem route_run {s : State} (h : s.RUN = true) (n : Channel) (w : Word) :
    route n w s = .next (emit n (.val w (valueUnder (s.CFG.get n) w)) (s.routed n w)) := by
  simp [route, State.wordTaken, h, decodeStage_run]

theorem route_idle {s : State} (h : s.RUN = false) (n : Channel) (w : Word) :
    route n w s = .next s.noBeat := by
  simp [route, State.wordTaken, h]

theorem drop_run {s : State} (h : s.RUN = true) (w : Word) :
    drop w s = .next (s.dropped w).noBeat := by
  simp [drop, State.wordTaken, h]

theorem drop_idle {s : State} (h : s.RUN = false) (w : Word) : drop w s = .next s.noBeat := by
  simp [drop, State.wordTaken, h]

/-- A Word with channel n's tag is routed there. -/
theorem demux_of_channelTag {w : Word} {n : Channel} (h : tagOf w = channelTag n) (s : State) :
    demux w s = route n w s := by
  have hw : wordOf (channelTag n) (magOf w) = w := h ▸ wordOf_tagOf_magOf w
  cases n <;> simp only [channelTag] at h hw <;>
    simp [demux, h, execRoute1, execRoute2, execRoute3, execRoute4, hw]

/-- A Word with none of the four tags is dropped. -/
theorem demux_of_isDropped {w : Word} (h : isDropped w = true) (s : State) :
    demux w s = drop w s := by
  simp only [isDropped, decide_eq_true_eq] at h
  simp [demux, h]

/-- Every Word has one of the four tags or is dropped (R108). -/
theorem tag_cases (w : Word) : (∃ n, tagOf w = channelTag n) ∨ isDropped w = true := by
  by_cases h1 : tagOf w = 0x3#4; · exact .inl ⟨.ch1, h1⟩
  by_cases h2 : tagOf w = 0x7#4; · exact .inl ⟨.ch2, h2⟩
  by_cases h3 : tagOf w = 0xB#4; · exact .inl ⟨.ch3, h3⟩
  by_cases h4 : tagOf w = 0xE#4; · exact .inl ⟨.ch4, h4⟩
  exact .inr (by simp [isDropped, h1, h2, h3, h4])

theorem demux_wordOf (t : Tag) (m : Mag) (s : State) :
    demux (wordOf t m) s = exec (decodeWord (wordOf t m)) s := by
  have all_tags : ∀ t : BitVec 4, t = 0x0#4 ∨ t = 0x1#4 ∨ t = 0x2#4 ∨ t = 0x3#4 ∨ t = 0x4#4 ∨
      t = 0x5#4 ∨ t = 0x6#4 ∨ t = 0x7#4 ∨ t = 0x8#4 ∨ t = 0x9#4 ∨ t = 0xA#4 ∨ t = 0xB#4 ∨
      t = 0xC#4 ∨ t = 0xD#4 ∨ t = 0xE#4 ∨ t = 0xF#4 := by decide
  simp only [demux, decodeWord, tagOf_wordOf, magOf_wordOf]
  rcases all_tags t with h | h | h | h | h | h | h | h | h | h | h | h | h | h | h | h <;>
    subst h <;> rfl

/-- The demultiplexer runs the instruction that the Word decodes to (R101, Table E1). -/
theorem demux_eq_exec (w : Word) (s : State) : demux w s = exec (decodeWord w) s := by
  rw [← wordOf_tagOf_magOf w, demux_wordOf]

/-- The decode operation of a TypeDescriptor. -/
theorem exec_decodeOperation (ty : TypeDescriptor) (n : Channel) (w : Word) (s : State) :
    exec (decodeOperation ty n w) s = decodeAs ty n w s := by
  cases ty <;> rfl

/-- In a run, a Word is routed to the channel of its tag and decoded there, or dropped. -/
theorem demux_run {s : State} (h : s.RUN = true) (w : Word) :
    (∃ n, tagOf w = channelTag n ∧
        demux w s = .next (emit n (.val w (valueUnder (s.CFG.get n) w)) (s.routed n w))) ∨
      (isDropped w = true ∧ demux w s = .next (s.dropped w).noBeat) := by
  obtain ⟨n, hn⟩ | hd := tag_cases w
  · exact .inl ⟨n, hn, by rw [demux_of_channelTag hn, route_run h]⟩
  · exact .inr ⟨hd, by rw [demux_of_isDropped hd, drop_run h]⟩

/-! ## What one step can do -/

/-- The next states of a step with the port sample `p`, from the state `s` in which its command runs. -/
inductive Effect (p : Input) (s : State) : State → Prop where
  /-- The reset input (R150). -/
  | reset (rst : p.rst = true) : Effect p s (applyReset s)
  /-- NOP (R146). -/
  | nop (rst : p.rst = false) (cmd : p.cmd = 0#3) : Effect p s s.noBeat
  /-- CFG while idle (R147). -/
  | configured (rst : p.rst = false) (cmd : p.cmd = 1#3) (d : TypeDescriptor)
      (code : codeOfType d = cfgType p.cfgOp) (finite : scaleFinite (cfgIsf p.cfgOp) = true)
      (idle : s.RUN = false) :
      Effect p s (s.setCfg (channelOfNumber (cfgCh p.cfgOp))
        { ty := d, sf := cfgSf p.cfgOp, isf := cfgIsf p.cfgOp }).noBeat
  /-- CFG in a run (R147). -/
  | configIgnored (rst : p.rst = false) (cmd : p.cmd = 1#3) (running : s.RUN = true) :
      Effect p s s.noBeat
  /-- START while idle (R148). -/
  | opened (rst : p.rst = false) (cmd : p.cmd = 2#3) (idle : s.RUN = false) :
      Effect p s s.clearHistories.openRun.noBeat
  /-- START in a run (R148). -/
  | startIgnored (rst : p.rst = false) (cmd : p.cmd = 2#3) (running : s.RUN = true) :
      Effect p s s.noBeat
  /-- PUSH while idle (R94). -/
  | pushIgnored (rst : p.rst = false) (cmd : p.cmd = 3#3) (idle : s.RUN = false) :
      Effect p s s.noBeat
  /-- PUSH at phase 0 (R92). -/
  | held (rst : p.rst = false) (cmd : p.cmd = 3#3) (running : s.RUN = true)
      (phase : s.HAVE = false) : Effect p s (s.latch p.inData).noBeat
  /-- PUSH at phase 1, the Word routed (R93, R102 to R105). -/
  | routed (rst : p.rst = false) (cmd : p.cmd = 3#3) (running : s.RUN = true)
      (phase : s.HAVE = true) (n : Channel) (tag : tagOf (pairWord s.HOLD p.inData) = channelTag n) :
      Effect p s
        (emit n (.val (pairWord s.HOLD p.inData)
            (valueUnder (s.CFG.get n) (pairWord s.HOLD p.inData)))
          ((s.formWord p.inData (pairWord s.HOLD p.inData)).routed n (pairWord s.HOLD p.inData)))
  /-- PUSH at phase 1, the Word dropped (R93, R106). -/
  | dropped (rst : p.rst = false) (cmd : p.cmd = 3#3) (running : s.RUN = true)
      (phase : s.HAVE = true) (tag : isDropped (pairWord s.HOLD p.inData) = true) :
      Effect p s
        ((s.formWord p.inData (pairWord s.HOLD p.inData)).dropped (pairWord s.HOLD p.inData)).noBeat
  /-- END in a run (R149). -/
  | closed (rst : p.rst = false) (cmd : p.cmd = 4#3) (running : s.RUN = true) :
      Effect p s s.closeRun.noBeat
  /-- END while idle (R149). -/
  | endIgnored (rst : p.rst = false) (cmd : p.cmd = 4#3) (idle : s.RUN = false) :
      Effect p s s.noBeat

/-- A legal type code is that of a TypeDescriptor. -/
theorem typeOfCode_of_legal (c : BitVec 3) (h : typeLegal c = true) :
    ∃ d, typeOfCode c = some d ∧ codeOfType d = c := by
  have all_codes : ∀ c : BitVec 3, typeLegal c = true →
      (typeOfCode c).map codeOfType = some c := by decide
  simpa using all_codes c h

/-- Every command that decodes is taken, whatever the state (R145). -/
theorem exec_decoded_effect {p : Input} {i : Instr} (hr : p.rst = false)
    (h : decodeCommand p = .ok i) (s : State) : ∃ t, exec i s = .next t ∧ Effect p s t := by
  obtain ⟨hc, rfl⟩ | ⟨hc, hd⟩ | ⟨hc, rfl⟩ | ⟨hc, rfl⟩ | ⟨hc, rfl⟩ := decodeCommand_cases h
  · exact ⟨_, rfl, .nop hr hc⟩
  · obtain ⟨hty, hisf, rfl⟩ := decodeCfg_ok hd
    obtain ⟨d, hd, hcode⟩ := typeOfCode_of_legal _ hty
    simp only [exec, execCfg, hd, hisf, Bool.not_true, Bool.false_eq_true, if_false]
    cases hs : s.RUN
    · exact ⟨_, rfl, .configured hr hc d hcode hisf hs⟩
    · exact ⟨_, rfl, .configIgnored hr hc hs⟩
  · simp only [exec, execStart]
    cases hs : s.RUN
    · exact ⟨_, rfl, .opened hr hc hs⟩
    · exact ⟨_, rfl, .startIgnored hr hc hs⟩
  · simp only [exec, execPush]
    cases hs : s.RUN
    · exact ⟨_, rfl, .pushIgnored hr hc hs⟩
    cases hh : s.HAVE
    · exact ⟨_, rfl, .held hr hc hs hh⟩
    simp only [if_true]
    obtain ⟨n, hn, he⟩ | ⟨hd, he⟩ :=
      demux_run (s := s.formWord p.inData (pairWord s.HOLD p.inData)) hs
        (pairWord s.HOLD p.inData)
    · exact ⟨_, he, .routed hr hc hs hh n hn⟩
    · exact ⟨_, he, .dropped hr hc hs hh hd⟩
  · simp only [exec, execEndRun]
    cases hs : s.RUN
    · exact ⟨_, rfl, .endIgnored hr hc hs⟩
    · exact ⟨_, rfl, .closed hr hc hs⟩

/-- What one step can do: a refusal of a reserved input, or one of the effects. -/
theorem step_cases (s : State) :
    (∃ e, (fetch s).1.rst = false ∧ decodeCommand (fetch s).1 = .error e ∧
        step s = .refused (refusalOf e)) ∨
      ∃ t, step s = .next t ∧ Effect (fetch s).1 (fetch s).2 t := by
  cases hr : (fetch s).1.rst
  · cases hd : decodeCommand (fetch s).1 with
    | error e => exact .inl ⟨e, rfl, rfl, by simp [step, hr, hd]⟩
    | ok i =>
      obtain ⟨t, ht, he⟩ := exec_decoded_effect hr hd (fetch s).2
      exact .inr ⟨t, by simp [step, hr, hd, ht], he⟩
  · exact .inr ⟨applyReset (fetch s).2, by simp [step, hr], .reset hr⟩

/-- The effect behind a next state. -/
theorem step_effect {s t : State} (h : step s = .next t) : Effect (fetch s).1 (fetch s).2 t := by
  obtain ⟨e, -, -, he⟩ | ⟨u, hu, he⟩ := step_cases s
  · rw [h] at he; cases he
  · rw [h] at hu; cases hu; exact he

/-- Fetching takes one sample off the list and touches nothing else. -/
theorem fetch_state (s : State) : (fetch s).2 = { s with input := s.input.tail } := by
  cases s with
  | mk r h ho c b w ch d o i be => cases i <;> rfl

end Sys2Proof.Machine
end

