-- ==== Sys2Proof/Tests/Slice0.lean ====
section
/-! SUPPORT. Tests. The expected results are the spec's own: the words are written out from
30_encoding.md, the values are the vectors of 95_test_vectors.md, each named in its comment. After them
the witnesses: for every statement with hypotheses, inputs that meet them. -/

namespace Sys2Proof.Tests

open Sys2Proof.Machine

/-! ## Helpers -/

/-- In a run, at phase 0. -/
def running : State := { State.reset with RUN := true }

/-- In a run, with a byte held. -/
def holding (b : Byte) : State := { running with HAVE := true, HOLD := b, BUF := [b] }

/-- All four channels configured alike. -/
def configured (ty : TypeDescriptor) (sf : BitVec 6) (isf : F64) (s : State) : State :=
  { s with CFG := PerChannel.all { ty := ty, sf := sf, isf := isf } }

/-- The next state, if there is one. -/
def stateOf : Result → Option State
  | .next s => some s
  | _ => none

/-- The refusal, if there is one. -/
def refusalIn : Result → Option Refusal
  | .refused r => some r
  | _ => none

/-- The output port of the step, if it presents a beat. -/
def beatIn (r : Result) : Option Beat := (stateOf r).bind State.beat

/-- A state about to be given one input. -/
def given (p : Input) (s : State) : State := { s with input := [p] }

/-- A reserved command. -/
def reservedInput (code : BitVec 3) : Input := commandInput code 0#8 0#75

/-! ## Well-formedness -/

/-- Type code 5 is reserved (vector C6). -/
theorem test_cfg_type_five_ill_formed :
    (Instr.cfg 0#2 5#3 0#6 F64.one).wellFormed = false := by decide

/-- +infinity and a NaN are no scale (vector C7). -/
theorem test_cfg_infinite_scale_ill_formed :
    (Instr.cfg 0#2 0#3 0#6 0x7FF0000000000000#64).wellFormed = false ∧
    (Instr.cfg 0#2 0#3 0#6 0x7FF8000000000000#64).wellFormed = false ∧
    (Instr.cfg 0#2 4#3 63#6 0x7FEFFFFFFFFFFFFF#64).wellFormed = true := by decide

/-! ## Decoding, every row from its own encoding -/

/-- Format C, codes of R75; the operand of CFG is vector C4's. -/
theorem test_decode_commands :
    decode (.command (reservedInput 0b000#3)) = .ok .nop ∧
    decode (.command (commandInput 0b001#3 0#8 0x73FBFE0000000000000#75)) =
      .ok (.cfg 3#2 4#3 63#6 0xBFE0000000000000#64) ∧
    decode (.command (reservedInput 0b010#3)) = .ok .start ∧
    decode (.command (commandInput 0b011#3 0b10110000#8 0#75)) = .ok (.push 0xB0#8) ∧
    decode (.command (reservedInput 0b100#3)) = .ok .endRun := by decide

/-- Codes without a meaning, by name (vectors C6, C7, C15). -/
theorem test_decode_refuses_by_name :
    decode (.command (reservedInput 0b101#3)) = .error (.reservedCommand 5#3) ∧
    decode (.command (reservedInput 0b110#3)) = .error (.reservedCommand 6#3) ∧
    decode (.command (reservedInput 0b111#3)) = .error (.reservedCommand 7#3) ∧
    decode (.command (commandInput 1#3 0#8 0x1400000000000000000#75)) = .error (.reservedType 5#3) ∧
    decode (.command (commandInput 1#3 0#8 0x0007FF0000000000000#75)) =
      .error (.nonFiniteScale 0x7FF0000000000000#64) ∧
    decode (.typed 0b110#3 .ch1 0x3000#16) = .error (.reservedType 6#3) := by decide

/-- Format W, Table E1: the four routing tags. -/
theorem test_decode_routes :
    decode (.word 0b0011000000000001#16) = .ok (.route1 1#12) ∧
    decode (.word 0b0111000000000010#16) = .ok (.route2 2#12) ∧
    decode (.word 0b1011000000000011#16) = .ok (.route3 3#12) ∧
    decode (.word 0b1110011111111111#16) = .ok (.route4 0x7FF#12) := by decide

/-- Format W, Table E1: the twelve dropping tags. -/
theorem test_decode_drops :
    decode (.word 0b0000010110100101#16) = .ok (.drop0 0x5A5#12) ∧
    decode (.word 0b0001010110100101#16) = .ok (.drop1 0x5A5#12) ∧
    decode (.word 0b0010010110100101#16) = .ok (.drop2 0x5A5#12) ∧
    decode (.word 0b0100010110100101#16) = .ok (.drop4 0x5A5#12) ∧
    decode (.word 0b0101010110100101#16) = .ok (.drop5 0x5A5#12) ∧
    decode (.word 0b0110010110100101#16) = .ok (.drop6 0x5A5#12) ∧
    decode (.word 0b1000010110100101#16) = .ok (.drop8 0x5A5#12) ∧
    decode (.word 0b1001010110100101#16) = .ok (.drop9 0x5A5#12) ∧
    decode (.word 0b1010010110100101#16) = .ok (.dropA 0x5A5#12) ∧
    decode (.word 0b1100010110100101#16) = .ok (.dropC 0x5A5#12) ∧
    decode (.word 0b1101010110100101#16) = .ok (.dropD 0x5A5#12) ∧
    decode (.word 0b1111010110100101#16) = .ok (.dropF 0x5A5#12) := by decide

/-- Format T, Table E2. -/
theorem test_decode_operations :
    decode (.typed 0b000#3 .ch1 0x3123#16) = .ok (.decU16 .ch1 0x3123#16) ∧
    decode (.typed 0b001#3 .ch2 0x7123#16) = .ok (.decS16 .ch2 0x7123#16) ∧
    decode (.typed 0b010#3 .ch3 0xB123#16) = .ok (.decU32 .ch3 0xB123#16) ∧
    decode (.typed 0b011#3 .ch1 0x3123#16) = .ok (.decS32 .ch1 0x3123#16) ∧
    decode (.typed 0b100#3 .ch4 0xE123#16) = .ok (.decU16O .ch4 0xE123#16) := by decide

/-- A table word is read as the table numbers it (log 10). -/
theorem test_table_words :
    decodeTableWord 3 2 = some .start ∧ decodeTableWord 8 3 = some (.push 0#8) ∧
    decodeTableWord 3 5 = none ∧ decodeTableWord 16 0xE000 = some (.route4 0#12) ∧
    decodeTableWord 16 0x0000 = some (.drop0 0#12) := by decide

/-- A placed instruction is the one the very next step runs. -/
theorem test_placed_instruction_runs :
    step (State.reset.withFetchWord 3 2) = exec .start State.reset ∧
    step (State.reset.withFetchWord 16 0x3001) =
      exec (.route1 1#12)
        { State.reset with RUN := true, HOLD := 0x30#8, BUF := [0x01#8], WORDS := [0x3001#16] } := by
  constructor <;> rfl

/-! ## The commands -/

/-- Vector C2. -/
theorem test_nop_keeps_a_held_byte :
    step (given nopInput (holding 0x30#8)) = .next (holding 0x30#8) := rfl

/-- Vector C3. -/
theorem test_cfg_idle :
    (stateOf (step (given (commandInput 1#3 0#8 0x0C43FF0000000000000#75) State.reset))).map State.CFG =
      some (State.reset.CFG.set .ch1 { ty := .signed32, sf := 4#6, isf := F64.one }) := by decide

/-- Vector C5. -/
theorem test_cfg_in_a_run :
    let s := configured .signed16 0#6 F64.one running
    step (given (cfgInput 0#2 0#3 0#6 F64.one) s) = .next s := rfl

/-- Vector C8: the histories of the last run are emptied, the held value kept. -/
theorem test_start_idle :
    (stateOf (exec .start { holding 0x37#8 with RUN := false, HAVE := false })).map
        (fun s => (s.RUN, s.HAVE, s.HOLD, s.BUF)) =
      some (true, false, 0x37#8, []) := by decide

/-- Vector C9. -/
theorem test_start_in_a_run : exec .start (holding 0x37#8) = .next (holding 0x37#8) := rfl

/-- Vector C11: the held byte is discarded, the histories stay. -/
theorem test_end_discards_the_held_byte :
    (stateOf (exec .endRun (holding 0x70#8))).map
        (fun s => (s.RUN, s.HAVE, s.BUF, s.WORDS)) =
      some (false, false, [0x70#8], []) := by decide

/-- Vector C12. -/
theorem test_end_idle : exec .endRun State.reset = .next State.reset := rfl

/-- Vectors A3, A4: the first byte is the high byte. -/
theorem test_push_pairs_big_endian :
    ((stateOf (exec (.push 0x01#8) (holding 0x30#8))).map State.WORDS = some [0x3001#16]) ∧
    ((stateOf (exec (.push 0x30#8) (holding 0x01#8))).map State.WORDS = some [0x0130#16]) := by
  decide

/-- Vector C13, and step 7 of program P1: the beat of a completed Word. -/
theorem test_push_idle_and_completing :
    exec (.push 0x30#8) State.reset = .next State.reset ∧
    beatIn (exec (.push 0x01#8) (configured .signed32 4#6 F64.one (holding 0x30#8))) =
      some
        { outValid := 0b0001#4, outWord := 0x3001#16, outErr := 0#1
          outData := 0xC19FFC0000000000#64 } := by
  exact ⟨rfl, by decide⟩

/-- Vector C14: reset has priority over the PUSH of its step. -/
theorem test_reset_has_priority :
    (stateOf (step (given { pushInput 0x01#8 with rst := true } (holding 0x30#8)))).map
        (fun s => (s.RUN, s.HAVE, s.BUF, s.beat)) =
      some (false, false, [], none) := by decide

/-- Vectors C6, C7, C15. -/
theorem test_refusals :
    refusalIn (step (given (reservedInput 5#3) State.reset)) = some (.reservedCommand 5#3) ∧
    refusalIn (step (given (cfgInput 0#2 5#3 0#6 F64.one) State.reset)) = some (.reservedType 5#3) ∧
    refusalIn (step (given (cfgInput 0#2 0#3 0#6 0x7FF8000000000000#64) running)) =
      some (.nonFiniteScale 0x7FF8000000000000#64) := by decide

/-! ## The Word operations -/

/-- Vectors M3, M7, M11, M14: the channel mark, and the tag retained (M18). -/
theorem test_routes_mark_their_channel :
    (beatIn (exec (.route1 0x5A5#12) running)).map (fun b => (b.outValid, b.outWord)) =
      some (0b0001#4, 0x35A5#16) ∧
    (beatIn (exec (.route2 0x5A5#12) running)).map (fun b => (b.outValid, b.outWord)) =
      some (0b0010#4, 0x75A5#16) ∧
    (beatIn (exec (.route3 0x5A5#12) running)).map (fun b => (b.outValid, b.outWord)) =
      some (0b0100#4, 0xB5A5#16) ∧
    (beatIn (exec (.route4 0x5A5#12) running)).map (fun b => (b.outValid, b.outWord)) =
      some (0b1000#4, 0xE5A5#16) := by decide

/-- Vector M17 up to its third Word: arrival order within a channel. -/
theorem test_route_appends :
    (stateOf (exec (.route1 0x003#12)
        { running with CHW := { PerChannel.all [] with c1 := [0x3001#16], c2 := [0x7002#16] } })).map
        State.CHW =
      some { PerChannel.all [] with c1 := [0x3001#16, 0x3003#16], c2 := [0x7002#16] } := by decide

/-- Vectors M0 to M6: recorded as dropped, nothing decoded. -/
theorem test_low_drops :
    exec (.drop0 0x5A5#12) running = .next { running with DROPPED := [0x05A5#16] } ∧
    exec (.drop1 0x5A5#12) running = .next { running with DROPPED := [0x15A5#16] } ∧
    exec (.drop2 0x5A5#12) running = .next { running with DROPPED := [0x25A5#16] } ∧
    exec (.drop4 0x5A5#12) running = .next { running with DROPPED := [0x45A5#16] } ∧
    exec (.drop5 0x5A5#12) running = .next { running with DROPPED := [0x55A5#16] } ∧
    exec (.drop6 0x5A5#12) running = .next { running with DROPPED := [0x65A5#16] } := by
  refine ⟨?_, ?_, ?_, ?_, ?_, ?_⟩ <;> rfl

/-- Vectors M8 to M15. -/
theorem test_high_drops :
    exec (.drop8 0x5A5#12) running = .next { running with DROPPED := [0x85A5#16] } ∧
    exec (.drop9 0x5A5#12) running = .next { running with DROPPED := [0x95A5#16] } ∧
    exec (.dropA 0x5A5#12) running = .next { running with DROPPED := [0xA5A5#16] } ∧
    exec (.dropC 0x5A5#12) running = .next { running with DROPPED := [0xC5A5#16] } ∧
    exec (.dropD 0x5A5#12) running = .next { running with DROPPED := [0xD5A5#16] } ∧
    exec (.dropF 0x5A5#12) running = .next { running with DROPPED := [0xF5A5#16] } := by
  refine ⟨?_, ?_, ?_, ?_, ?_, ?_⟩ <;> rfl

/-! ## The decode operations -/

/-- Vectors V1a, V1f, V1g with SF = 4. -/
theorem test_dec_u16 :
    decodeValue 0x3000#16 .unsigned16 4#6 F64.one = 0#64 ∧
    decodeValue 0x3FFF#16 .unsigned16 4#6 F64.one = 0x40AFFE0000000000#64 ∧
    decodeValue 0x3123#16 .unsigned16 4#6 F64.one = 0x4072300000000000#64 := by decide

/-- Vectors V2a, V8, V9, V10 with SF = 0. -/
theorem test_dec_s16 :
    decodeValue 0x3000#16 .signed16 0#6 F64.one = 0xC0E0000000000000#64 ∧
    decodeValue 0x37FF#16 .signed16 0#6 F64.one = 0xC030000000000000#64 ∧
    decodeValue 0x3800#16 .signed16 0#6 F64.one = 0#64 ∧
    decodeValue 0x3801#16 .signed16 0#6 F64.one = 0x4030000000000000#64 := by decide

/-- Vectors V3f, V18, V19. -/
theorem test_dec_u32 :
    decodeValue 0x3FFF#16 .unsigned32 0#6 F64.one = 0x41EFFE0000000000#64 ∧
    decodeValue 0x3FFF#16 .unsigned32 31#6 F64.one = 0x3FF0000000000000#64 ∧
    decodeValue 0x3FFF#16 .unsigned32 32#6 F64.one = 0#64 := by decide

/-- Vectors V1 (the source's fixture S3), V17, V22b. -/
theorem test_dec_s32 :
    decodeValue 0x3123#16 .signed32 4#6 F64.one = 0xC19B740000000000#64 ∧
    decodeValue 0x3123#16 .signed32 63#6 F64.one = 0xBFF0000000000000#64 ∧
    decodeValue 0x3000#16 .signed32 32#6 F64.one = 0xBFF0000000000000#64 := by decide

/-- Vectors V23 (floor, not truncation), V25, V5h, V5i. -/
theorem test_dec_u16o :
    decodeValue 0xB000#16 .unsigned16Offset 4#6 F64.one = 0xC079A00000000000#64 ∧
    decodeValue 0xB000#16 .unsigned16Offset 12#6 F64.one = 0xC000000000000000#64 ∧
    decodeValue 0x3199#16 .unsigned16Offset 4#6 F64.one = 0xBFF0000000000000#64 ∧
    decodeValue 0x319A#16 .unsigned16Offset 4#6 F64.one = 0#64 := by decide

/-- Each operation under its own TYPE, on the Word 0x3123 with SF = 4: the five values of 2.4. -/
theorem test_dec_outcomes :
    (beatIn (exec (.decU16 .ch1 0x3123#16) (configured .unsigned16 4#6 F64.one running))).map
      Beat.outData = some 0x4072300000000000#64 ∧
    (beatIn (exec (.decS16 .ch1 0x3123#16) (configured .signed16 4#6 F64.one running))).map
      Beat.outData = some 0xC09B740000000000#64 ∧
    (beatIn (exec (.decU32 .ch1 0x3123#16) (configured .unsigned32 4#6 F64.one running))).map
      Beat.outData = some 0x4172300000000000#64 ∧
    (beatIn (exec (.decS32 .ch1 0x3123#16) (configured .signed32 4#6 F64.one running))).map
      Beat.outData = some 0xC19B740000000000#64 ∧
    (beatIn (exec (.decU16O .ch1 0x3123#16) (configured .unsigned16Offset 4#6 F64.one running))).map
      Beat.outData = some 0xC05DC00000000000#64 := by decide

/-- Vectors V32, V33, V40: exact and inexact products. -/
theorem test_product_rounding :
    decodeValue 0x7123#16 .signed16 4#6 0x3FE0000000000000#64 = 0xC08B740000000000#64 ∧
    decodeValue 0x7123#16 .signed16 4#6 0x3FB999999999999A#64 = 0xC065F66666666667#64 ∧
    decodeValue 0xE003#16 .unsigned16 4#6 0x3FB999999999999A#64 = 0x3FD3333333333334#64 := by decide

/-- Vectors V35, V36, V37: signs of zero. -/
theorem test_product_zero_signs :
    decodeValue 0x7800#16 .signed16 4#6 0xBFF0000000000000#64 = 0x8000000000000000#64 ∧
    decodeValue 0x7800#16 .signed16 4#6 0x8000000000000000#64 = 0x8000000000000000#64 ∧
    decodeValue 0x77FF#16 .signed16 4#6 0#64 = 0x8000000000000000#64 := by decide

/-- Vectors V42 to V45: overflow to the infinity of the product's sign. -/
theorem test_product_overflow :
    decodeValue 0x3FFF#16 .unsigned32 0#6 0x7FEFFFFFFFFFFFFF#64 = 0x7FF0000000000000#64 ∧
    decodeValue 0x3000#16 .signed32 0#6 0x7FEFFFFFFFFFFFFF#64 = 0xFFF0000000000000#64 ∧
    decodeValue 0x3001#16 .unsigned16 4#6 0x7FEFFFFFFFFFFFFF#64 = 0x7FEFFFFFFFFFFFFF#64 ∧
    decodeValue 0x3001#16 .unsigned16 3#6 0x7FEFFFFFFFFFFFFF#64 = 0x7FF0000000000000#64 := by decide

/-- Vectors V46 to V48: subnormals. -/
theorem test_product_subnormal :
    decodeValue 0x3001#16 .unsigned16 4#6 1#64 = 1#64 ∧
    decodeValue 0x3001#16 .unsigned16 0#6 1#64 = 0x10#64 ∧
    decodeValue 0x37FF#16 .signed16 4#6 1#64 = 0x8000000000000001#64 := by decide

/-! ## Sequences and the text level -/

/-- The source's example S1, and vector A8: an odd last byte is in no Word. -/
theorem test_assemble :
    assemble [0x30#8, 0x01#8, 0x70#8, 0x02#8] = [0x3001#16, 0x7002#16] ∧
    assemble [0xFF#8, 0xFF#8, 0xFF#8, 0xFF#8, 0xFF#8] = [0xFFFF#16, 0xFFFF#16] := by decide

/-- The source's example S2. -/
theorem test_partition :
    channelWords .ch1 [0x3001#16, 0x7002#16, 0xB003#16, 0xFFFF#16] = [0x3001#16] ∧
    channelWords .ch4 [0x3001#16, 0x7002#16, 0xB003#16, 0xFFFF#16] = [] ∧
    droppedWords [0x3001#16, 0x7002#16, 0xB003#16, 0xFFFF#16] = [0xFFFF#16] := by decide

/-- Vectors X9, X10. -/
theorem test_tok_text :
    tok 0x0A#8 = { c0 := '0', c1 := 'a' } ∧
    textOf 0xB003#16 = { c0 := 'b', c1 := '0', c2 := '0', c3 := '3' } := by decide

/-- Four characters as a word text. -/
def wt (a b c d : Char) : WordText := { c0 := a, c1 := b, c2 := c, c3 := d }

/-- The configuration of the vectors X1 to X7. -/
def textCfg : PerChannel ChannelConfig :=
  PerChannel.all { ty := .unsigned16, sf := 4#6, isf := F64.one }

/-- Vector X3: the malformed Word alone is an error, with its channel and index. -/
theorem test_malformed_word_is_scoped :
    let r := textRun textCfg [wt '3' '0' '0' '1', wt '3' 'x' '2' '3', wt '3' '0' '0' '2']
    r.OUT.c1 =
      [.val (wt '3' '0' '0' '1') 0x3FF0000000000000#64, .err (wt '3' 'x' '2' '3') 1#8,
        .val (wt '3' '0' '0' '2') 0x4000000000000000#64] ∧
    r.errors = [{ channel := .ch1, index := 1, text := wt '3' 'x' '2' '3' }] := by decide

/-- Vectors X2, X4, X5, X6: exact tags, upper case in the residual, dropped texts never parsed. -/
theorem test_text_tags :
    let r := textRun textCfg
      [wt '3' 'A' '0' 'f', wt 'B' '0' '0' '3', wt 'x' '1' '2' '3', wt 'f' 'x' '!' '?']
    r.OUT.c1 = [.val (wt '3' 'A' '0' 'f') 0x40A41E0000000000#64] ∧ r.DROPPED.length = 3 ∧
    r.errors = [] := by decide

/-- What a pattern denotes, from its three parts. -/
theorem toRat_parts {x : F64} {neg : Bool} {sig : Nat} {q : Int} (hs : F64.sign x = neg)
    (hm : F64.significand x = sig) (hq : F64.quantum x = q) :
    F64.toRat x = (if neg then -1 else 1) * (sig : ℚ) * (2 : ℚ) ^ q := by
  subst hs hm hq
  rfl

theorem toRat_one : F64.toRat F64.one = 1 := by
  rw [toRat_parts (neg := false) (sig := 2 ^ 52) (q := -52) (by decide) (by decide) (by decide)]
  norm_num

/-! ## Witnesses: inputs that meet the hypotheses of each statement that has any -/

/-- A configured run about to complete the Word 0x3123 on channel 1. -/
def completing : State := given (pushInput 0x23#8) (configured .signed32 4#6 F64.one (holding 0x31#8))

/-- A configured run about to complete the Word 0xF123, which is dropped. -/
def dropping : State := given (pushInput 0x23#8) (configured .signed32 4#6 F64.one (holding 0xF1#8))

theorem test_witness_EncodedInstructionDecodes :
    (Instr.cfg 0#2 0#3 0#6 0#64).wellFormed = true ∧
    (Instr.cfg 3#2 4#3 63#6 0xFFEFFFFFFFFFFFFF#64).wellFormed = true ∧
    (Instr.push 0xFF#8).wellFormed = true ∧ (Instr.dropF 0xFFF#12).wellFormed = true ∧
    (Instr.decU16O .ch4 0xFFFF#16).wellFormed = true := by decide

theorem test_witness_DecodedItemIsReencoded :
    decode (.command (cfgInput 3#2 4#3 63#6 F64.one)) = .ok (.cfg 3#2 4#3 63#6 F64.one) ∧
    (cfgInput 3#2 4#3 63#6 F64.one).cmd = 1#3 ∧
    decode (.command { pushInput 0xFF#8 with rst := true, cfgOp := 5#75 }) = .ok (.push 0xFF#8) ∧
    (pushInput 0xFF#8).cmd = 3#3 ∧ decode (.word 0xFFFF#16) = .ok (.dropF 0xFFF#12) ∧
    decode (.typed 4#3 .ch4 0xFFFF#16) = .ok (.decU16O .ch4 0xFFFF#16) := by decide

theorem test_witness_CfgOperandFields :
    let p := cfgInput 3#2 4#3 63#6 0xFFEFFFFFFFFFFFFF#64
    p.cmd = 1#3 ∧ (p.cfgOp.extractLsb' 70 3).toNat < 5 ∧ p.cfgOp.extractLsb' 52 11 ≠ 0x7FF#11 := by
  decide

/-- Also the witness of ResetInputIdlesTheCore. -/
theorem test_witness_ResetStateValues :
    let s := given { pushInput 1#8 with rst := true } (holding 0x30#8)
    s.input = { pushInput 1#8 with rst := true } :: [] ∧
    ({ pushInput 1#8 with rst := true } : Input).rst = true := by decide

theorem test_witness_StepRunsDecodedCommand :
    completing.input = pushInput 0x23#8 :: [] ∧ (pushInput 0x23#8).rst = false ∧
    decodeCommand (pushInput 0x23#8) = .ok (.push 0x23#8) ∧ State.reset.input = [] := by decide

theorem test_witness_StepRunsFormedWord :
    completing.input = pushInput 0x23#8 :: [] ∧ (pushInput 0x23#8).rst = false ∧
    (pushInput 0x23#8).cmd = 3#3 ∧ completing.RUN = true ∧ completing.HAVE = true := by decide

theorem test_witness_ReservedCommandRefused :
    (given (reservedInput 5#3) running).input = reservedInput 5#3 :: [] ∧
    (reservedInput 5#3).rst = false ∧ 5 ≤ (reservedInput 5#3).cmd.toNat ∧
    (given (reservedInput 7#3) running).input = reservedInput 7#3 :: [] ∧
    (reservedInput 7#3).rst = false ∧ 5 ≤ (reservedInput 7#3).cmd.toNat := by decide

theorem test_witness_EveryCommandIsTaken :
    legalInput (fetch (given endInput State.reset)).1 = true ∧
    legalInput (fetch (given { reservedInput 7#3 with rst := true } State.reset)).1 = true ∧
    legalInput (fetch (given (reservedInput 5#3) State.reset)).1 = false ∧
    legalInput (fetch (given (cfgInput 0#2 5#3 0#6 0#64) State.reset)).1 = false ∧
    legalInput (fetch (given (cfgInput 0#2 4#3 0#6 0x7FF0000000000000#64) State.reset)).1 = false := by
  decide

/-- The codes of the statements NopChangesNothing, StartOpensRun, EndClosesRun and the three on PUSH. -/
theorem test_witness_command_codes :
    nopInput.cmd = 0#3 ∧ startInput.cmd = 2#3 ∧ (pushInput 0#8).cmd = 3#3 ∧ endInput.cmd = 4#3 := by
  decide

/-- One state for each branch: a reserved type, a non-finite scale, idle, in a run. -/
theorem test_witness_CfgCommandOnThePorts :
    let badType := cfgInput 0#2 5#3 0#6 0#64
    let badScale := cfgInput 0#2 4#3 0#6 0xFFF0000000000000#64
    let good := cfgInput 3#2 4#3 63#6 0x7FEFFFFFFFFFFFFF#64
    (badType.rst = false ∧ badType.cmd = 1#3 ∧ 5 ≤ (badType.cfgOp.extractLsb' 70 3).toNat) ∧
    (badScale.rst = false ∧ badScale.cmd = 1#3 ∧
      (badScale.cfgOp.extractLsb' 0 64).extractLsb' 52 11 = 0x7FF#11) ∧
    (good.rst = false ∧ good.cmd = 1#3 ∧ ¬ 5 ≤ (good.cfgOp.extractLsb' 70 3).toNat ∧
      (good.cfgOp.extractLsb' 0 64).extractLsb' 52 11 ≠ 0x7FF#11) ∧
    (given good State.reset).input = good :: [] ∧ (given good State.reset).RUN = false ∧
    (given good running).input = good :: [] ∧ (given good running).RUN ≠ false := by decide

theorem test_witness_CfgWritesWholeRegister :
    scaleFinite 0#64 = true ∧ scaleFinite 0x7FEFFFFFFFFFFFFF#64 = true ∧
    scaleFinite 0xFFEFFFFFFFFFFFFF#64 = true := by decide

theorem test_witness_CfgRefusesIllegalOperand :
    5 ≤ (5#3).toNat ∧ 5 ≤ (7#3).toNat ∧ (4#3).toNat < 5 ∧
    (0x7FF0000000000000#64).extractLsb' 52 11 = 0x7FF#11 ∧
    (0xFFFFFFFFFFFFFFFF#64).extractLsb' 52 11 = 0x7FF#11 := by decide

theorem test_witness_PushHoldsFirstByte : running.RUN = true ∧ running.HAVE = false := by decide

/-- A Word that routes and one that drops. -/
theorem test_witness_PushFormsWord :
    (holding 0xE0#8).RUN = true ∧ (holding 0xE0#8).HAVE = true ∧
    tagOf (pairWord (holding 0xE0#8).HOLD 0#8) = 0xE#4 ∧
    tagOf (pairWord (holding 0xF0#8).HOLD 0#8) = 0xF#4 := by decide

/-- Also the witness of WordOperationsNeedARun. -/
theorem test_witness_PushWhileIdleIgnored : State.reset.RUN = false := by decide

theorem test_witness_RouteAppendsAndDecodes :
    running.RUN = true ∧ 0x3000#16 &&& 0xF000#16 = 0x3000#16 ∧
    0x7FFF#16 &&& 0xF000#16 = 0x7000#16 ∧ 0xB003#16 &&& 0xF000#16 = 0xB000#16 ∧
    0xEFFF#16 &&& 0xF000#16 = 0xE000#16 := by decide

theorem test_witness_DropOnlyRecordsTheWord :
    running.RUN = true ∧ 0x0000#16 &&& 0xF000#16 = 0x0000#16 ∧
    0x1FFF#16 &&& 0xF000#16 = 0x1000#16 ∧ 0x2000#16 &&& 0xF000#16 = 0x2000#16 ∧
    0x4FFF#16 &&& 0xF000#16 = 0x4000#16 ∧ 0x5000#16 &&& 0xF000#16 = 0x5000#16 ∧
    0x6FFF#16 &&& 0xF000#16 = 0x6000#16 ∧ 0x8000#16 &&& 0xF000#16 = 0x8000#16 ∧
    0x9FFF#16 &&& 0xF000#16 = 0x9000#16 ∧ 0xA000#16 &&& 0xF000#16 = 0xA000#16 ∧
    0xCFFF#16 &&& 0xF000#16 = 0xC000#16 ∧ 0xD000#16 &&& 0xF000#16 = 0xD000#16 ∧
    0xFFFF#16 &&& 0xF000#16 = 0xF000#16 := by decide

/-- Also the witness of RoutingIsAPartition. -/
theorem test_witness_RouteRunsSelectedOperation :
    running.RUN = true ∧ tagOf 0x3000#16 = channelTag .ch1 ∧ tagOf 0x7FFF#16 = channelTag .ch2 ∧
    tagOf 0xB000#16 = channelTag .ch3 ∧ tagOf 0xEFFF#16 = channelTag .ch4 := by decide

theorem test_witness_WordAndDecodeFrame :
    (∃ t, exec (decodeWord 0x3001#16) running = .next t) ∧
    (∃ t, exec (decodeWord 0xF001#16) running = .next t) ∧
    (∃ t, exec (decodeOperation .unsigned16 .ch1 0x3001#16) running = .next t) := by
  exact ⟨⟨_, rfl⟩, ⟨_, rfl⟩, ⟨_, rfl⟩⟩

/-- A run with every channel of a type and a scalefactor: the magnitudes and counts at which the
clauses of the five DEC statements meet stand beside it. -/
theorem test_witness_dec_statements (ty : TypeDescriptor) (sf : BitVec 6) (n : Channel) :
    let s := configured ty sf F64.one running
    s.RUN = true ∧ (s.CFG.get n).ty = ty ∧ (s.CFG.get n).sf = sf ∧
      scaleFinite (s.CFG.get n).isf = true := by
  have finite : scaleFinite F64.one = true := by decide
  cases n <;> exact ⟨rfl, rfl, rfl, finite⟩

theorem test_witness_dec_boundaries :
    (0x3000#16).extractLsb' 0 12 = 0x000#12 ∧ (0x3199#16).extractLsb' 0 12 = 0x199#12 ∧
    (0x319A#16).extractLsb' 0 12 = 0x19A#12 ∧ (0x37FF#16).extractLsb' 0 12 = 0x7FF#12 ∧
    (0x3800#16).extractLsb' 0 12 = 0x800#12 ∧ (0x3801#16).extractLsb' 0 12 = 0x801#12 ∧
    (0x3FFF#16).extractLsb' 0 12 = 0xFFF#12 ∧
    (0#6).toNat = 0 ∧ (3#6).toNat < 4 ∧ (4#6).toNat = 4 ∧ 16 ≤ (16#6).toNat ∧ (20#6).toNat = 20 ∧
    32 ≤ (32#6).toNat ∧ 32 ≤ (63#6).toNat := by decide

/-- The positive scale of the sign clause of DecodeSigned16. -/
theorem test_witness_positive_scale : 0 < F64.toRat F64.one := by
  rw [toRat_one]
  norm_num

theorem test_witness_DecodeNeedsItsType :
    State.reset.RUN = false ∧ (running.CFG.get .ch1).ty ≠ .signed16 := by decide

theorem test_witness_ShiftIsFloor : (0 : Int) ≤ 0 ∧ (-1 : Int) < 0 := by decide

/-- Magnitudes at the ends of the range; a V3 on each side of zero; the count 0. -/
theorem test_witness_IntermediateRanges :
    0 ≤ 4095 ∧ 4095 ≤ 4095 ∧ 0 ≤ codeV3 (stepV 0x3800#16) .signed16 ∧
    codeV3 (stepV 0x37FF#16) .signed16 < 0 := by decide

theorem test_witness_LargeShiftCounts : 32 ≤ (32#6).toNat ∧ 32 ≤ (63#6).toNat := by decide

theorem test_witness_IntegersConvertExactly :
    |(2 : Int) ^ 53| ≤ 2 ^ 53 ∧ |-(2 : Int) ^ 53| ≤ 2 ^ 53 ∧ |(0 : Int)| ≤ 2 ^ 53 := by decide

/-- A product below the bound (that of V33) and one beyond it (that of V45). -/
theorem test_witness_ProductIsCorrectlyRounded :
    |(-1757 : Int)| ≤ 2 ^ 53 ∧ scaleFinite 0x3FB999999999999A#64 = true ∧
    |((-1757 : Int) : ℚ) * F64.toRat 0x3FB999999999999A#64| < F64.overflowBound ∧
    |(2 : Int)| ≤ 2 ^ 53 ∧ scaleFinite 0x7FEFFFFFFFFFFFFF#64 = true ∧
    F64.overflowBound ≤ |((2 : Int) : ℚ) * F64.toRat 0x7FEFFFFFFFFFFFFF#64| := by
  refine ⟨by decide, by decide, ?_, by decide, by decide, ?_⟩
  · rw [toRat_parts (neg := false) (sig := 0x1999999999999A) (q := -56) (by decide) (by decide)
      (by decide)]
    have big : (1 : ℚ) ≤ 2 ^ 970 := one_le_pow₀ (by norm_num)
    norm_num [F64.overflowBound]
    generalize (2 : ℚ) ^ 970 = x at *
    linarith
  · rw [toRat_parts (neg := false) (sig := 2 ^ 53 - 1) (q := 971) (by decide) (by decide)
      (by decide)]
    have big : (1 : ℚ) ≤ 2 ^ 970 := one_le_pow₀ (by norm_num)
    have twice : (2 : ℚ) ^ 971 = 2 * 2 ^ 970 := pow_succ' 2 970
    norm_num [F64.overflowBound]
    rw [twice]
    clear twice
    generalize (2 : ℚ) ^ 970 = x at *
    linarith

/-- A tie: the integer 2^53 − 2 times 1.5 is an odd integer between two binary64 numbers. -/
theorem test_witness_rounding_tie :
    let exact : ℚ := ((2 ^ 53 - 2 : Int) : ℚ) * F64.toRat 0x3FF8000000000000#64
    let r := stepValue (2 ^ 53 - 2) 0x3FF8000000000000#64
    let y : F64 := 0x4347FFFFFFFFFFFF#64
    scaleFinite y = true ∧ |exact - F64.toRat r| = |exact - F64.toRat y| ∧
      F64.toRat y ≠ F64.toRat r ∧ r.getLsbD 0 = false := by
  have result : stepValue (2 ^ 53 - 2) 0x3FF8000000000000#64 = 0x4347FFFFFFFFFFFE#64 := by decide
  simp only [result]
  rw [toRat_parts (x := 0x3FF8000000000000#64) (neg := false) (sig := 3 * 2 ^ 51) (q := -52)
      (by decide) (by decide) (by decide),
    toRat_parts (x := 0x4347FFFFFFFFFFFE#64) (neg := false) (sig := 6755399441055742) (q := 1)
      (by decide) (by decide) (by decide),
    toRat_parts (x := 0x4347FFFFFFFFFFFF#64) (neg := false) (sig := 6755399441055743) (q := 1)
      (by decide) (by decide) (by decide)]
  refine ⟨by decide, ?_, ?_, by decide⟩ <;> norm_num [abs]

theorem test_witness_ResultRange :
    scaleFinite F64.one = true ∧ |F64.toRat F64.one| ≤ 2 ^ 991 ∧
    scaleFinite 0xC079A00000000000#64 = true ∧
    F64.toRat 0xC079A00000000000#64 =
      ((stepV4 (codeV3 (stepV 0xB000#16) .unsigned16Offset) 4#6 : Int) : ℚ) * F64.toRat F64.one := by
  have code : stepV4 (codeV3 (stepV 0xB000#16) .unsigned16Offset) 4#6 = -410 := by decide
  rw [code, toRat_one, toRat_parts (x := 0xC079A00000000000#64) (neg := true)
    (sig := 410 * 2 ^ 44) (q := -44) (by decide) (by decide) (by decide)]
  have big : (1 : ℚ) ≤ 2 ^ 991 := one_le_pow₀ (by norm_num)
  refine ⟨by decide, by simpa using big, by decide, ?_⟩
  norm_num

/-! ### Steps: each branch of the statements on one step is taken by a step that completes -/

theorem test_witness_next_value_reset :
    let s := given { pushInput 1#8 with rst := true } (holding 0x30#8)
    (fetch s).1.rst = true ∧ ∃ t, step s = .next t := ⟨rfl, _, rfl⟩

theorem test_witness_next_value_start :
    let s := given startInput State.reset
    (fetch s).1.rst = false ∧ (fetch s).1.cmd = 2#3 ∧ s.RUN = false ∧ ∃ t, step s = .next t :=
  ⟨rfl, rfl, rfl, _, rfl⟩

theorem test_witness_next_value_end :
    let s := given endInput (holding 0x30#8)
    (fetch s).1.rst = false ∧ (fetch s).1.cmd = 4#3 ∧ s.RUN = true ∧ ∃ t, step s = .next t :=
  ⟨rfl, rfl, rfl, _, rfl⟩

theorem test_witness_next_value_first_byte :
    let s := given (pushInput 0xFF#8) running
    (fetch s).1.rst = false ∧ (fetch s).1.cmd = 3#3 ∧ s.RUN = true ∧ s.HAVE = false ∧
      ∃ t, step s = .next t := ⟨rfl, rfl, rfl, rfl, _, rfl⟩

theorem test_witness_next_value_cfg :
    let s := given (cfgInput 3#2 4#3 63#6 F64.one) State.reset
    (fetch s).1.rst = false ∧ (fetch s).1.cmd = 1#3 ∧ s.RUN = false ∧
      Channel.ch1 ≠ channelOfNumber (cfgCh (fetch s).1.cfgOp) ∧ ∃ t, step s = .next t :=
  ⟨rfl, rfl, rfl, by decide, _, rfl⟩

/-- None of the conditions: NOP. -/
theorem test_witness_next_value_otherwise :
    let s := given nopInput (holding 0x30#8)
    (fetch s).1.rst = false ∧ (fetch s).1.cmd = 0#3 ∧ ∃ t, step s = .next t := ⟨rfl, rfl, _, rfl⟩

/-- The branches of BeatOfAStep in which a Word completes: routed, and dropped. -/
theorem test_witness_BeatOfAStep :
    ((fetch completing).1.rst = false ∧ (fetch completing).1.cmd = 3#3 ∧ completing.RUN = true ∧
      completing.HAVE = true ∧ tagOf (pairWord completing.HOLD 0x23#8) = channelTag .ch1 ∧
      ∃ t, step completing = .next t) ∧
    ((fetch dropping).1.rst = false ∧ (fetch dropping).1.cmd = 3#3 ∧ dropping.RUN = true ∧
      dropping.HAVE = true ∧ (∀ n, tagOf (pairWord dropping.HOLD 0x23#8) ≠ channelTag n) ∧
      ∃ t, step dropping = .next t) := by
  refine ⟨⟨rfl, rfl, rfl, rfl, rfl, _, rfl⟩, ⟨rfl, rfl, rfl, rfl, ?_, _, rfl⟩⟩
  intro n
  cases n <;> decide

/-! ### Runs -/

/-- The invariant holds with a byte held, not only at reset. -/
theorem test_witness_StepKeepsDataModel :
    completing.Inv ∧ ∃ t, step completing = .next t := by
  refine ⟨?_, _, rfl⟩
  constructor
  · decide
  · decide
  · decide
  · decide
  · intro n; cases n <;> rfl
  · rfl
  · intro n; cases n <;> rfl
  · intro n r hr; cases n <;> cases hr
  · intro _ n; cases n <;> rfl
  · intro n; cases n <;> rfl

theorem test_witness_AssemblePairsDisjointly :
    [0x30#8, 0x01#8, 0x70#8][2 * 0]? = some 0x30#8 ∧
    [0x30#8, 0x01#8, 0x70#8][2 * 0 + 1]? = some 0x01#8 := by decide

/-- A run with a NOP between the bytes, an ignored START and an ignored CFG. -/
theorem test_witness_PipelineLaw :
    let cmds := [pushInput 0x30#8, nopInput, startInput, cfgInput 0#2 0#3 0#6 F64.one, pushInput 1#8]
    let s := { State.reset with input := startInput :: (cmds ++ endInput :: [nopInput]) }
    s.RUN = false ∧ s.input = startInput :: (cmds ++ endInput :: [nopInput]) ∧
    startInput.rst = false ∧ startInput.cmd = 2#3 ∧ endInput.rst = false ∧ endInput.cmd = 4#3 ∧
    (∀ p ∈ cmds, withinRun p = true) ∧ 0 ≤ cmds.length ∧ 5 ≤ cmds.length := by decide

theorem test_witness_TransactionsAreOneStream :
    ({ byteCount := 0, masterOutBytes := [1#8] } : Transaction).byteCount ≤ 0 ∧
    ({ byteCount := -1, masterOutBytes := [1#8] } : Transaction).byteCount ≤ 0 ∧
    pushInput 1#8 ∈ transactionCommands [{ byteCount := 1, masterOutBytes := [1#8, 2#8] }] := by
  decide

/-- Two states that differ in an unread HOLD. -/
theorem test_witness_UnreadHoldIsHarmless :
    State.reset.Agrees { State.reset with HOLD := 0xFF#8 } ∧
    State.reset ≠ { State.reset with HOLD := 0xFF#8 } := by
  refine ⟨?_, by decide⟩
  constructor <;> first | rfl | (intro h; cases h)

/-- Idle after reset, and idle after a run that left a byte in HOLD and histories behind. -/
theorem test_witness_RunForgetsThePast :
    let s := given startInput State.reset
    let t := given startInput { holding 0x37#8 with RUN := false, HAVE := false }
    s.RUN = false ∧ t.RUN = false ∧ s.CFG = t.CFG ∧ s.input = startInput :: [] ∧
    t.input = startInput :: [] ∧ startInput.rst = false ∧ startInput.cmd = 2#3 ∧ s ≠ t := by decide

theorem test_witness_ParseErrorEntry : Channel.ch2 ≠ Channel.ch1 := by decide

/-- A malformed second, third and fourth character (vectors X3, X7); the ends of the ranges of hexval. -/
theorem test_witness_MalformedTextRaisesParseError :
    hexval (wt '3' '-' '0' '1').c1 = none ∧ hexval (wt '3' '0' 'x' '1').c2 = none ∧
    hexval (wt '3' '0' '0' 'g').c3 = none ∧
    hexval (wt '3' '0' '9' 'a').c1 = some 0 ∧ hexval (wt '3' '0' '9' 'a').c2 = some 9 ∧
    hexval (wt '3' '0' '9' 'a').c3 = some 10 ∧
    hexval (wt '3' 'f' 'A' 'F').c1 = some 15 ∧ hexval (wt '3' 'f' 'A' 'F').c2 = some 10 ∧
    hexval (wt '3' 'f' 'A' 'F').c3 = some 15 := by decide

theorem test_witness_text_tags :
    textOf 0x3001#16 = textOf 0x3001#16 ∧ textChannel (textOf 0xE001#16) = some .ch4 ∧
    tagOf 0xE001#16 = channelTag .ch4 := by decide

end Sys2Proof.Tests
end

section
/-! SUPPORT. The text level (R10, R91, R101, R110, R129): hex digits and their values, the text of a
Word as the texts of its bytes, and the statements of the family that speak of texts. -/

namespace Sys2Proof.Machine

/-! ## Characters by their code -/

/-- A character of ASCII is known by its code. -/
theorem eq_charOfNat_iff {n : Nat} (h : n < 128) (c : Char) : c = Char.ofNat n ↔ c.toNat = n := by
  have valid : n.isValidChar := .inl (by omega)
  have code : (Char.ofNat n).toNat = n := by simp [Char.toNat_ofNat, valid]
  rw [← Char.toNat_inj, code]

/-- The character code of a hex digit: `0-9`, then lower case `a-f` (R10, D10). -/
theorem eq_hexdigit_iff (k : BitVec 4) (c : Char) :
    c = hexdigit k ↔ c.toNat = if k.toNat < 10 then 48 + k.toNat else 87 + k.toNat :=
  eq_charOfNat_iff (by have := k.isLt; split <;> omega) c

theorem hexdigit_inj {j k : BitVec 4} : hexdigit j = hexdigit k ↔ j = k := by
  refine ⟨fun same => ?_, congrArg hexdigit⟩
  have hj := (eq_hexdigit_iff j _).mp rfl
  rw [same, (eq_hexdigit_iff k _).mp rfl] at hj
  apply BitVec.eq_of_toNat_eq
  split at hj <;> split at hj <;> omega

/-- The characters on which `hexval` is defined, by their codes: the three ranges of R10. -/
theorem hexval_eq_some_iff (c : Char) (k : Nat) :
    hexval c = some k ↔
      k < 16 ∧ (c.toNat = (if k < 10 then 48 + k else 87 + k) ∨ (10 ≤ k ∧ c.toNat = 55 + k)) := by
  simp only [hexval]
  split
  · simp only [Option.some.injEq]; split <;> omega
  · split
    · simp only [Option.some.injEq]; split <;> omega
    · split
      · simp only [Option.some.injEq]; split <;> omega
      · simp only [reduceCtorEq, false_iff]; split <;> omega

/-! ## The text of a Word is the two Tokens of its bytes -/

theorem tok_injective : Function.Injective tok := by
  intro a b same
  obtain ⟨high, low⟩ := Token.mk.inj same
  rw [← append_slices (a := 4) (b := 4) a, ← append_slices (a := 4) (b := 4) b,
    hexdigit_inj.mp high, hexdigit_inj.mp low]

/-- A slice of a slice is a slice, where it lies inside. -/
theorem slice_slice {a : Nat} (x : BitVec a) (k len n l : Nat) (inside : n + l ≤ len) :
    (x.extractLsb' k len).extractLsb' n l = x.extractLsb' (k + n) l := by
  ext i hi
  have : n + i < len := by omega
  simp [BitVec.getElem_extractLsb', this, Nat.add_assoc]

theorem textOf_eq_pairTokens (w : Word) : textOf w = pairTokens (tok (hiByte w)) (tok (loByte w)) := by
  simp [textOf, pairTokens, tok, hiByte, loByte, slice_slice]

theorem textOf_pairWord (hi lo : Byte) : textOf (pairWord hi lo) = pairTokens (tok hi) (tok lo) := by
  simp [textOf_eq_pairTokens]

theorem pairTokens_inj {a b c d : Token} : pairTokens a b = pairTokens c d ↔ a = c ∧ b = d := by
  cases a; cases b; cases c; cases d
  simp [pairTokens, and_assoc]

theorem textOf_injective : Function.Injective textOf := by
  intro v w same
  rw [textOf_eq_pairTokens, textOf_eq_pairTokens, pairTokens_inj] at same
  obtain ⟨high, low⟩ := same
  rw [← pairWord_hiByte_loByte v, ← pairWord_hiByte_loByte w, tok_injective high, tok_injective low]

theorem assembleTokens_map_tok (bs : List Byte) :
    assembleTokens (bs.map tok) = (assemble bs).map textOf := by
  fun_induction assemble bs with
  | case1 hi lo rest ih => simp [assembleTokens, ih, textOf_pairWord]
  | case2 bs short =>
    match bs, short with
    | [], _ => rfl
    | [_], _ => rfl
    | hi :: lo :: rest, short => exact absurd rfl (short hi lo rest)

/-! ## The channel of a text is that of its first character -/

/-- The text-level comparison is with the hex digit of the channel's tag (R110, Table P1). -/
theorem textChannel_eq_some_iff (t : WordText) (n : Channel) :
    textChannel t = some n ↔ t.c0 = hexdigit (channelTag n) := by
  have digits : hexdigit (channelTag .ch1) = '3' ∧ hexdigit (channelTag .ch2) = '7' ∧
      hexdigit (channelTag .ch3) = 'b' ∧ hexdigit (channelTag .ch4) = 'e' := by decide
  obtain ⟨d1, d2, d3, d4⟩ := digits
  unfold textChannel
  cases n <;> simp only [d1, d2, d3, d4] <;> split_ifs <;> simp_all

theorem textChannel_textOf (w : Word) (n : Channel) :
    textChannel (textOf w) = some n ↔ tagOf w = channelTag n := by
  rw [textChannel_eq_some_iff]
  exact hexdigit_inj

/-! ## The residual -/

theorem parseResidual_eq_none {t : WordText}
    (h : hexval t.c1 = none ∨ hexval t.c2 = none ∨ hexval t.c3 = none) : parseResidual t = none := by
  unfold parseResidual
  split
  next h1 h2 h3 => simp [h1, h2, h3] at h
  next => rfl

theorem parseResidual_eq_some {t : WordText} {x y z : Nat} (h1 : hexval t.c1 = some x)
    (h2 : hexval t.c2 = some y) (h3 : hexval t.c3 = some z) :
    parseResidual t = some (256 * x + 16 * y + z) := by
  simp [parseResidual, h1, h2, h3]

theorem decodeText_of_unparsed {t : WordText} (h : parseResidual t = none) (n : Channel) (i : Nat)
    (c : ChannelConfig) : decodeText n i t c = .error { channel := n, index := i, text := t } := by
  simp [decodeText, h]

theorem decodeText_of_parsed {t : WordText} {v : Nat} (h : parseResidual t = some v) (n : Channel)
    (i : Nat) (c : ChannelConfig) :
    decodeText n i t c = .ok (decodeMagnitude v c.ty c.sf c.isf) := by
  simp [decodeText, h]

end Sys2Proof.Machine

open Sys2Proof Sys2Proof.Machine

/-- Settles O56: the text of a Word is the two Tokens of its bytes, and a hex digit names its nibble. -/
theorem textLevelMirrorsTheBinary : Obligations.TextLevelMirrorsTheBinary :=
  ⟨assembleTokens_map_tok, fun _ _ same => textOf_injective same, textChannel_textOf⟩

/-- Settles O58: `hexval` by character codes, then the parse and the decode in its two cases. -/
theorem malformedTextRaisesParseError : Obligations.MalformedTextRaisesParseError := by
  refine ⟨fun c k => ?_, fun n i t c => ⟨fun undefined => ?_, fun x y z hx hy hz => ?_⟩⟩
  · rw [hexval_eq_some_iff]
    refine and_congr_right fun (small : k < 16) => ?_
    rw [eq_hexdigit_iff, eq_charOfNat_iff (by omega), BitVec.toNat_ofNat, Nat.mod_eq_of_lt small]
  · have unparsed := parseResidual_eq_none undefined
    exact ⟨unparsed, decodeText_of_unparsed unparsed n i c⟩
  · have parsed := parseResidual_eq_some hx hy hz
    exact ⟨parsed, decodeText_of_parsed parsed n i c⟩

end

section
/-! SUPPORT. What a packed binary64 pattern denotes (R31, G1), and the conversion of an integer
(R125, G3): it keeps every bit, so nothing is rounded. -/

namespace Sys2Proof.Machine

/-! ## The fields of a signed pattern -/

/-- The pattern `roundF64` answers: a sign bit over exponent and fraction. -/
def F64.signed (neg : Bool) (body : Nat) : F64 := BitVec.ofNat 64 ((if neg then 2 ^ 63 else 0) + body)

theorem roundF64_eq_signed (neg : Bool) {m : Nat} (hm : m ≠ 0) (e : Int) :
    roundF64 neg m e = F64.signed neg
      (packMagnitude (roundTo m e (resultQuantum m e)) (resultQuantum m e)) := by
  simp [roundF64, hm, F64.signed]

section
variable (neg : Bool) {body : Nat} (h : body < 2 ^ 63)
include h

theorem F64.toNat_signed : (F64.signed neg body).toNat = (if neg then 2 ^ 63 else 0) + body := by
  rw [F64.signed, BitVec.toNat_ofNat, Nat.mod_eq_of_lt]
  split <;> omega

theorem F64.sign_signed : F64.sign (F64.signed neg body) = neg := by
  rw [F64.sign, ← BitVec.testBit_toNat, F64.toNat_signed neg h, Nat.testBit_eq_decide_div_mod_eq]
  cases neg
  · simp; omega
  · simp; omega

theorem F64.expField_signed : F64.expField (F64.signed neg body) = body / 2 ^ 52 := by
  rw [F64.expField, BitVec.extractLsb'_toNat, F64.toNat_signed neg h, Nat.shiftRight_eq_div_pow]
  split <;> omega

theorem F64.fracField_signed : F64.fracField (F64.signed neg body) = body % 2 ^ 52 := by
  rw [F64.fracField, BitVec.extractLsb'_toNat, F64.toNat_signed neg h, Nat.shiftRight_eq_div_pow]
  split <;> omega

end

/-- A number is finite exactly when its exponent field is not all ones (R31). -/
theorem scaleFinite_iff (x : F64) : scaleFinite x = true ↔ F64.expField x ≠ 0x7FF := by
  rw [scaleFinite, bne_iff_ne, ne_eq, ← BitVec.toNat_inj]
  rfl

/-! ## A packed significand denotes itself times its quantum -/

section
variable {sig : Nat} {q : Int} (below : (q + 1074).toNat * 2 ^ 52 + sig < infinityBits)
include below

theorem packMagnitude_of_lt : packMagnitude sig q = (q + 1074).toNat * 2 ^ 52 + sig :=
  min_eq_left below.le

theorem packMagnitude_lt : packMagnitude sig q < 2 ^ 63 := by
  rw [packMagnitude_of_lt below]
  simp only [infinityBits] at below
  omega

theorem scaleFinite_signed_packMagnitude (neg : Bool) :
    scaleFinite (F64.signed neg (packMagnitude sig q)) = true := by
  rw [scaleFinite_iff, F64.expField_signed neg (packMagnitude_lt below), packMagnitude_of_lt below]
  simp only [infinityBits] at below
  omega

/-- Significand and quantum come back from the pattern, except that a carry out of rounding, `2^53`,
comes back as `2^52` of the next quantum. -/
theorem significand_quantum_signed_packMagnitude (neg : Bool) (range : -1074 ≤ q)
    (normal : 2 ^ 52 ≤ sig ∨ q = -1074) (bits : sig ≤ 2 ^ 53) :
    let x := F64.signed neg (packMagnitude sig q)
    (F64.significand x = sig ∧ F64.quantum x = q) ∨
      (sig = 2 ^ 53 ∧ F64.significand x = 2 ^ 52 ∧ F64.quantum x = q + 1) := by
  intro x
  have small := packMagnitude_lt below
  have exponent : F64.expField x = ((q + 1074).toNat * 2 ^ 52 + sig) / 2 ^ 52 :=
    packMagnitude_of_lt below ▸ F64.expField_signed neg small
  have fraction : F64.fracField x = ((q + 1074).toNat * 2 ^ 52 + sig) % 2 ^ 52 :=
    packMagnitude_of_lt below ▸ F64.fracField_signed neg small
  rw [F64.significand, F64.quantum, exponent, fraction]
  split <;> omega

theorem toRat_signed_packMagnitude (neg : Bool) (range : -1074 ≤ q)
    (normal : 2 ^ 52 ≤ sig ∨ q = -1074) (bits : sig ≤ 2 ^ 53) :
    F64.toRat (F64.signed neg (packMagnitude sig q)) =
      (if neg then -1 else 1) * ((sig : ℚ) * (2 : ℚ) ^ q) := by
  rw [F64.toRat, F64.sign_signed neg (packMagnitude_lt below), mul_assoc]
  obtain ⟨hsig, hq⟩ | ⟨carry, hsig, hq⟩ :=
    significand_quantum_signed_packMagnitude below neg range normal bits
  · rw [hsig, hq]
  · rw [hsig, hq, carry, zpow_add_one₀ two_ne_zero]
    push_cast
    ring

end

/-! ## The integers -/

theorem resultQuantum_zero (m : Nat) : resultQuantum m 0 = (Nat.log2 m : Int) - 52 := by
  simp only [resultQuantum]
  omega

/-- An integer of at most 53 bits is shifted left into place: no bit is lost. -/
theorem roundTo_of_log2_le {m : Nat} (h : Nat.log2 m ≤ 52) :
    roundTo m 0 (Nat.log2 m - 52) = m * 2 ^ (52 - Nat.log2 m) := by
  have shift : (0 - ((Nat.log2 m : Int) - 52)).toNat = 52 - Nat.log2 m := by omega
  rw [roundTo, if_pos (by omega), shift]

/-- Every integer from 1 to `2^53` has an exact significand of 53 bits; `2^53` itself, of 54 bits,
because its last bit is 0. -/
theorem roundTo_int_exact {m : Nat} (hm : m ≠ 0) (h : m ≤ 2 ^ 53) :
    let q : Int := Nat.log2 m - 52
    2 ^ 52 ≤ roundTo m 0 q ∧ roundTo m 0 q ≤ 2 ^ 53 ∧ q ≤ 1 ∧ (roundTo m 0 q : ℚ) * 2 ^ q = m := by
  dsimp only
  obtain rfl | lt := h.eq_or_lt
  · have log : Nat.log2 (2 ^ 53) = 53 := Nat.log2_two_pow
    have sig : roundTo (2 ^ 53) 0 1 = 2 ^ 52 := by decide
    rw [log, show ((53 : Nat) : Int) - 52 = 1 from rfl, sig]
    norm_num
  · have log : Nat.log2 m ≤ 52 := Nat.le_of_lt_succ ((Nat.log2_lt hm).mpr lt)
    have low : 2 ^ Nat.log2 m * 2 ^ (52 - Nat.log2 m) ≤ m * 2 ^ (52 - Nat.log2 m) :=
      Nat.mul_le_mul_right _ (Nat.log2_self_le hm)
    have high : m * 2 ^ (52 - Nat.log2 m) ≤ 2 ^ (Nat.log2 m + 1) * 2 ^ (52 - Nat.log2 m) :=
      Nat.mul_le_mul_right _ Nat.lt_log2_self.le
    have back : (2 : ℚ) ^ (52 - Nat.log2 m) * 2 ^ ((Nat.log2 m : Int) - 52) = 1 := by
      rw [← zpow_natCast, ← zpow_add₀ two_ne_zero, Nat.cast_sub log]
      norm_num
    rw [← pow_add, show Nat.log2 m + (52 - Nat.log2 m) = 52 by omega] at low
    rw [← pow_add, show Nat.log2 m + 1 + (52 - Nat.log2 m) = 53 by omega] at high
    rw [roundTo_of_log2_le log]
    refine ⟨low, high, by omega, ?_⟩
    rw [Nat.cast_mul, Nat.cast_pow, Nat.cast_ofNat, mul_assoc, back, mul_one]

/-- An integer from 1 to `2^53` with a sign converts to a finite number that denotes it (G3). -/
theorem roundF64_int_exact (neg : Bool) {m : Nat} (hm : m ≠ 0) (h : m ≤ 2 ^ 53) :
    scaleFinite (roundF64 neg m 0) = true ∧
      F64.toRat (roundF64 neg m 0) = (if neg then -1 else 1) * (m : ℚ) := by
  obtain ⟨normal, bits, hq, exact_value⟩ := roundTo_int_exact hm h
  rw [roundF64_eq_signed neg hm, resultQuantum_zero]
  have below : ((Nat.log2 m : Int) - 52 + 1074).toNat * 2 ^ 52 +
      roundTo m 0 (Nat.log2 m - 52) < infinityBits := by
    simp only [infinityBits]
    omega
  refine ⟨scaleFinite_signed_packMagnitude below neg, ?_⟩
  rw [toRat_signed_packMagnitude below neg (by omega) (.inl normal) bits, exact_value]

theorem f64OfInt_zero : f64OfInt 0 = F64.zero false := by decide

theorem toRat_zero : F64.toRat (F64.zero false) = 0 := by
  have sig : F64.significand (F64.zero false) = 0 := by decide
  simp [F64.toRat, sig]

end Sys2Proof.Machine

open Sys2Proof Sys2Proof.Machine

/-- Settles O40: zero by itself, the rest by sign and magnitude. -/
theorem integersConvertExactly : Obligations.IntegersConvertExactly := by
  intro i bound
  by_cases zero : i = 0
  · subst zero
    rw [f64OfInt_zero, toRat_zero]
    exact ⟨by decide, Int.cast_zero.symm⟩
  · rw [Int.abs_eq_natAbs] at bound
    obtain ⟨finite, value⟩ :=
      roundF64_int_exact (decide (i < 0)) (m := i.natAbs) (by omega) (by omega)
    refine ⟨finite, value.trans ?_⟩
    rw [Nat.cast_natAbs]
    by_cases negative : i < 0
    · simp [negative, abs_of_neg]
    · simp [negative, abs_of_nonneg (not_lt.mp negative)]

end

section
/-! SUPPORT. What one step does to each element of the state (10_state.md): the statements that follow
from the effects of a step. -/

namespace Sys2Proof.Machine

/-! ## The tags of the channels -/

theorem channelTag_inj {n k : Channel} : channelTag n = channelTag k ↔ n = k := by
  cases n <;> cases k <;> decide

theorem isDropped_iff (w : Word) : isDropped w = true ↔ ∀ n, tagOf w ≠ channelTag n := by
  simp only [isDropped, decide_eq_true_eq]
  refine ⟨fun ⟨h1, h2, h3, h4⟩ n => ?_, fun h => ⟨h .ch1, h .ch2, h .ch3, h .ch4⟩⟩
  cases n
  exacts [h1, h2, h3, h4]

/-! ## Steps -/

/-- The effect behind a next state, its command run from the state with one sample taken off. -/
theorem step_effect_input {s t : State} (h : step s = .next t) :
    Effect (fetch s).1 { s with input := s.input.tail } t :=
  fetch_state s ▸ step_effect h

/-- Outside a run no Word exists (R94). -/
theorem demux_idle {s : State} (idle : s.RUN = false) (w : Word) : demux w s = .next s.noBeat := by
  obtain ⟨n, tag⟩ | dropped := tag_cases w
  · rw [demux_of_channelTag tag, route_idle idle]
  · rw [demux_of_isDropped dropped, drop_idle idle]

theorem reset_scales_finite (n : Channel) : scaleFinite (State.reset.CFG.get n).isf = true := by
  cases n <;> decide

end Sys2Proof.Machine

open Sys2Proof Sys2Proof.Machine

/-- Settles O43: reset, START from idle and END in a run write RUN; START in a run and END while idle
find it as they would leave it. -/
theorem runFlagNextValue : Obligations.RunFlagNextValue := by
  intro s t h
  cases step_effect_input h with
  | reset rst => simp [rst]
  | opened rst cmd => simp [rst, cmd]
  | closed rst cmd => simp [rst, cmd]
  | startIgnored | endIgnored => simp_all
  | nop | configured | configIgnored | pushIgnored | held | routed | dropped => simp [*]

/-- Settles O44: HAVE is set by a byte held, cleared by the Word it comes to belong to, by START from
idle, by END in a run and by reset. -/
theorem phaseNextValue : Obligations.PhaseNextValue := by
  intro s t h
  cases step_effect_input h with
  | reset rst => simp [rst]
  | held | routed | dropped | opened | closed => simp_all
  | pushIgnored | startIgnored | endIgnored => simp_all
  | nop | configured | configIgnored => simp [*]

/-- Settles O45: the one effect that writes HOLD is that of a PUSH at phase 0. -/
theorem heldByteNextValue : Obligations.HeldByteNextValue := by
  intro s t h
  cases step_effect_input h with
  | held rst cmd run phase => exact (if_pos ⟨rst, cmd, run, phase⟩).symm
  | pushIgnored | routed | dropped => simp_all
  | reset | nop | configured | configIgnored | opened | startIgnored | closed | endIgnored =>
    simp [*]

/-- Settles O47: a PUSH in a run extends the buffers, at phase 1 by a Word too; reset and START from
idle empty them. -/
theorem bufferNextValue : Obligations.BufferNextValue := by
  intro s t h
  cases step_effect_input h with
  | reset rst => simp [rst, State.pos]
  | opened _ cmd idle => exact (if_pos (.inr ⟨cmd, idle⟩)).mpr ⟨rfl, rfl, rfl⟩
  | held | routed | dropped => simp_all [State.pos]
  | pushIgnored | startIgnored => simp_all [State.pos]
  | nop | configured | configIgnored | closed | endIgnored => simp [*, State.pos]

/-- Settles O46: of the effects, only that of a CFG taken while idle writes a register. -/
theorem configurationNextValue : Obligations.ConfigurationNextValue := by
  intro s t h
  cases step_effect_input h with
  | configured rst cmd d code finite idle =>
    rw [if_pos ⟨rst, cmd, idle⟩]
    exact ⟨d, code, by simp, fun n other => by simp [get_set_other _ _ other]⟩
  | configIgnored => simp_all
  | reset | nop | opened | startIgnored | pushIgnored | held | routed | dropped | closed
  | endIgnored => simp [*]

/-- Settles O48: of the effects, only that of a routed Word presents a beat; no Word has two tags. -/
theorem beatOfAStep : Obligations.BeatOfAStep := by
  intro s t h
  cases step_effect_input h with
  | routed rst cmd run phase n tag =>
    rw [if_pos ⟨rst, cmd, run, phase⟩]
    refine ⟨fun k hk => ?_, fun untagged => absurd tag (untagged n)⟩
    obtain rfl : n = k := channelTag_inj.mp (tag.symm.trans hk)
    refine ⟨rfl, by simp, by simp, rfl, fun k other => ?_⟩
    simp [get_push_other _ _ other]
  | dropped rst cmd run phase tag =>
    rw [if_pos ⟨rst, cmd, run, phase⟩]
    exact ⟨fun n hn => absurd hn ((isDropped_iff _).mp tag n), fun _ => ⟨rfl, rfl, rfl, rfl⟩⟩
  | reset rst => simp [rst]
  | opened | startIgnored | pushIgnored | held => simp_all
  | nop | configured | configIgnored | closed | endIgnored => simp [*]

/-- Settles O26: what these operations answer is a beat or its absence, over an appended history. -/
theorem wordAndDecodeFrame : Obligations.WordAndDecodeFrame := by
  rintro s t i (⟨w, rfl⟩ | ⟨ty, n, w, rfl⟩) h
  · rw [← demux_eq_exec] at h
    cases run : s.RUN
    · rw [demux_idle run] at h
      cases h
      simp [run]
    · obtain ⟨n, -, he⟩ | ⟨-, he⟩ := demux_run run w
      all_goals
        rw [he] at h
        cases h
        simp [run]
  · rw [exec_decodeOperation, decodeAs] at h
    split at h <;> cases h <;> simp

/-- Settles O6: State.reset by its fields, a later reset by those of `applyReset`. -/
theorem resetStateValues : Obligations.ResetStateValues := by
  refine ⟨?_, reset_scales_finite, fun s p rest input rst => ?_⟩
  · simp [AfterReset, State.reset, State.idx]
  · refine ⟨applyReset (fetch s).2, by simp [step, fetch, input, rst], ?_, by simp [fetch_state]⟩
    simp [AfterReset, State.idx]

/-- Settles O15: a channel's number and a TypeDescriptor's code are read back as they were. -/
theorem cfgWritesWholeRegister : Obligations.CfgWritesWholeRegister := by
  intro s n d sf isf finite
  cases run : s.RUN <;> simp [exec, execCfg, finite, run, State.noBeat, State.setCfg]

end

section
/-! SUPPORT. The invariant of the data model (R25, R35 to R37, R43): what a step adds to the histories is
what the batch functions make of one byte more. -/

namespace Sys2Proof.Machine

/-! ## The batch demultiplexer when one more Word arrives -/

theorem channelWords_snoc_routed {w : Word} {n : Channel} (tag : tagOf w = channelTag n)
    (k : Channel) (ws : List Word) :
    channelWords k (ws ++ [w]) = if k = n then channelWords k ws ++ [w] else channelWords k ws := by
  split
  next same => simp [channelWords, tag, same]
  next other => simp [channelWords, tag, channelTag_inj, Ne.symm other]

theorem channelWords_snoc_dropped {w : Word} (dropped : isDropped w = true) (k : Channel)
    (ws : List Word) : channelWords k (ws ++ [w]) = channelWords k ws := by
  simp [channelWords, (isDropped_iff w).mp dropped k]

theorem droppedWords_snoc_routed {w : Word} {n : Channel} (tag : tagOf w = channelTag n)
    (ws : List Word) : droppedWords (ws ++ [w]) = droppedWords ws := by
  have kept : ¬ isDropped w = true := fun dropped => (isDropped_iff w).mp dropped n tag
  simp [droppedWords, kept]

theorem droppedWords_snoc_dropped {w : Word} (dropped : isDropped w = true) (ws : List Word) :
    droppedWords (ws ++ [w]) = droppedWords ws ++ [w] := by
  simp [droppedWords, dropped]

theorem recordSeq_snoc (ws : List Word) (w : Word) (c : ChannelConfig) :
    recordSeq (ws ++ [w]) c = recordSeq ws c ++ [.val w (valueUnder c w)] := by
  simp [recordSeq]

/-! ## What one step keeps of the data model -/

/-- Empty histories meet the data model in any mode, once no byte is held. -/
theorem clearHistories_inv {s : State} (phase : s.HAVE = false)
    (finite : ∀ n, scaleFinite (s.CFG.get n).isf = true) : s.clearHistories.Inv where
  idle_phase _ := phase
  run_phase _ := phase
  held_byte held := by rw [clearHistories_HAVE, phase] at held; cases held
  words_assembled := rfl
  words_routed n := by simp [channelWords]
  words_dropped := rfl
  records_of_words n := by simp
  records_are_values n := by simp
  records_decoded _ n := by simp [recordSeq]
  scales_finite := finite

namespace State.Inv

variable {s : State} (h : s.Inv)
include h

theorem noBeat : s.noBeat.Inv := { h with }

theorem with_input (rest : List Input) : ({ s with input := rest } : State).Inv := { h with }

/-- The configuration is written while idle, when no record speaks of it (R33). -/
theorem setCfg (idle : s.RUN = false) (n : Channel) {c : ChannelConfig}
    (finite : scaleFinite c.isf = true) : (s.setCfg n c).Inv :=
  { h with
    records_decoded := fun run => by rw [setCfg_RUN, idle] at run; cases run
    scales_finite := fun k => by
      rw [setCfg_CFG, get_set]
      split
      · exact finite
      · exact h.scales_finite k }

theorem closeRun : s.closeRun.Inv :=
  { h with
    idle_phase := fun _ => rfl
    run_phase := nofun
    held_byte := nofun
    records_decoded := nofun }

/-- The phase is the parity of the bytes accepted (R25). -/
theorem length_mod_two (run : s.RUN = true) : s.BUF.length % 2 = if s.HAVE then 1 else 0 := by
  rw [h.run_phase run]
  split <;> simp_all

/-- A byte at phase 0 is held, and forms no Word (R92). -/
theorem latch (run : s.RUN = true) (phase : s.HAVE = false) (b : Byte) : (s.latch b).Inv := by
  have even : s.BUF.length % 2 = 0 := by simp [h.length_mod_two run, phase]
  exact
    { h with
      idle_phase := fun idle => by rw [latch_RUN, run] at idle; cases idle
      run_phase := fun _ => by
        have odd : (s.BUF.length + 1) % 2 = 1 := by omega
        simp [odd]
      held_byte := fun _ => by simp
      words_assembled := by simp [assemble_snoc_even s.BUF b even, h.words_assembled] }

/-- A byte at phase 1 ends the pair of the held byte: the parity of BUF is even again, and the batch
assembler has one Word more (R93, R98). -/
theorem pair_completed (run : s.RUN = true) (phase : s.HAVE = true) (b : Byte) :
    (s.BUF.length + 1) % 2 = 0 ∧
      s.WORDS ++ [pairWord s.HOLD b] = assemble (s.BUF ++ [b]) := by
  have odd : s.BUF.length % 2 = 1 := by simp [h.length_mod_two run, phase]
  refine ⟨by omega, ?_⟩
  rw [assemble_snoc_odd s.BUF s.HOLD b odd (h.held_byte phase), h.words_assembled]

/-- The Word formed and routed to the channel of its tag, its record appended (R93, R102). -/
theorem formWord_routed (run : s.RUN = true) (phase : s.HAVE = true) (b : Byte) {n : Channel}
    (tag : tagOf (pairWord s.HOLD b) = channelTag n) :
    (emit n (.val (pairWord s.HOLD b) (valueUnder (s.CFG.get n) (pairWord s.HOLD b)))
      ((s.formWord b (pairWord s.HOLD b)).routed n (pairWord s.HOLD b))).Inv := by
  obtain ⟨even, assembled⟩ := h.pair_completed run phase b
  exact
    { idle_phase := fun _ => rfl
      run_phase := fun _ => by simp [even]
      held_byte := nofun
      words_assembled := assembled
      words_routed := fun k => by
        simp [get_push, channelWords_snoc_routed tag, h.words_routed]
      words_dropped := by simp [droppedWords_snoc_routed tag, h.words_dropped]
      records_of_words := fun k => by
        simp only [emit_OUT, emit_CHW, routed_OUT, routed_CHW, formWord_OUT, formWord_CHW, get_push]
        split <;> simp [h.records_of_words, Record.word]
      records_are_values := fun k r hr => by
        simp only [emit_OUT, routed_OUT, formWord_OUT, get_push] at hr
        split at hr
        · obtain old | new := List.mem_append.mp hr
          · exact h.records_are_values k r old
          · rw [List.mem_singleton.mp new]; rfl
        · exact h.records_are_values k r hr
      records_decoded := fun _ k => by
        simp only [emit_OUT, emit_CHW, emit_CFG, routed_OUT, routed_CHW, routed_CFG, formWord_OUT,
          formWord_CHW, formWord_CFG, get_push]
        split
        next same => rw [recordSeq_snoc, h.records_decoded run, same]
        next => exact h.records_decoded run k
      scales_finite := h.scales_finite }

/-- The Word formed and dropped (R93, R106). -/
theorem formWord_dropped (run : s.RUN = true) (phase : s.HAVE = true) (b : Byte)
    (dropped : isDropped (pairWord s.HOLD b) = true) :
    ((s.formWord b (pairWord s.HOLD b)).dropped (pairWord s.HOLD b)).Inv := by
  obtain ⟨even, assembled⟩ := h.pair_completed run phase b
  exact
    { h with
      idle_phase := fun _ => rfl
      run_phase := fun _ => by simp [even]
      held_byte := nofun
      words_assembled := assembled
      words_routed := fun k => by simp [channelWords_snoc_dropped dropped, h.words_routed]
      words_dropped := by simp [droppedWords_snoc_dropped dropped, h.words_dropped] }

/-- Every effect of a step keeps the data model. -/
theorem of_effect {p : Input} {t : State} (e : Effect p s t) : t.Inv := by
  cases e with
  | reset => exact clearHistories_inv (s := s.closeRun.noBeat) rfl h.scales_finite
  | configured _ _ _ _ finite idle => exact State.Inv.noBeat (h.setCfg idle _ finite)
  | opened => exact (clearHistories_inv (s := s.openRun) rfl h.scales_finite).noBeat
  | held _ _ run phase => exact (h.latch run phase _).noBeat
  | routed _ _ run phase _ tag => exact h.formWord_routed run phase _ tag
  | dropped _ _ run phase tag => exact (h.formWord_dropped run phase _ tag).noBeat
  | closed => exact h.closeRun.noBeat
  | nop | configIgnored | startIgnored | pushIgnored | endIgnored => exact h.noBeat

end State.Inv

end Sys2Proof.Machine

open Sys2Proof Sys2Proof.Machine

/-- Settles O49: each effect of a step keeps the invariant. -/
theorem stepKeepsDataModel : Obligations.StepKeepsDataModel :=
  fun _ _ inv h => (inv.with_input _).of_effect (step_effect_input h)

/-- Settles O7: the histories of State.reset are empty, no byte is held and the scales are +0.0. -/
theorem resetMeetsDataModel : Obligations.ResetMeetsDataModel :=
  clearHistories_inv (s := State.reset) rfl reset_scales_finite

end

section
/-! SUPPORT. What a byte in HOLD can decide (R22, U5): two states that agree up to one that is not
held step to outcomes that agree, and so do their runs; START leaves nothing else of the past (R159). -/

namespace Sys2Proof.Machine

namespace State.Agrees

variable {s t : State} (h : s.Agrees t)
include h

theorem noBeat : s.noBeat.Agrees t.noBeat := { h with beat := rfl }

theorem setCfg (n : Channel) (c : ChannelConfig) : (s.setCfg n c).Agrees (t.setCfg n c) :=
  { h with cfg := by simp [h.cfg] }

/-- A byte latched is the same, whatever was in HOLD. -/
theorem latch (b : Byte) : (s.latch b).Agrees (t.latch b) :=
  { h with
    phase := rfl
    held := fun _ => rfl
    buf := by simp [h.buf] }

theorem formWord (b : Byte) (w : Word) : (s.formWord b w).Agrees (t.formWord b w) :=
  { h with
    phase := rfl
    held := nofun
    buf := by simp [h.buf]
    words := by simp [h.words] }

theorem appendRouted (n : Channel) (w : Word) : (s.routed n w).Agrees (t.routed n w) :=
  { h with routed := by simp [h.routed] }

theorem appendDropped (w : Word) : (s.dropped w).Agrees (t.dropped w) :=
  { h with dropped := by simp [h.dropped] }

theorem emit_record (n : Channel) (r : Record Word) : (emit n r s).Agrees (emit n r t) :=
  { h with
    out := by simp [h.out]
    beat := rfl }

theorem closeRun : s.closeRun.Agrees t.closeRun :=
  { h with
    run := rfl
    phase := rfl
    held := nofun }

theorem input_tail : ({ s with input := s.input.tail } : State).Agrees
    { t with input := t.input.tail } :=
  { h with input := by rw [h.input] }

omit h in
/-- With the histories emptied and no byte held, two states of the same mode, configuration and
commands ahead agree. -/
theorem of_cleared (run : s.RUN = t.RUN) (sPhase : s.HAVE = false) (tPhase : t.HAVE = false)
    (cfg : s.CFG = t.CFG) (input : s.input = t.input) :
    s.clearHistories.noBeat.Agrees t.clearHistories.noBeat where
  run := run
  phase := sPhase.trans tPhase.symm
  held held := by rw [noBeat_HAVE, clearHistories_HAVE, sPhase] at held; cases held
  cfg := cfg
  buf := rfl
  words := rfl
  routed := rfl
  dropped := rfl
  out := rfl
  input := input
  beat := rfl

omit h in
/-- What START from idle leaves: nothing of the past but the byte in HOLD (R41, R159). -/
theorem of_opened (cfg : s.CFG = t.CFG) (input : s.input = t.input) :
    s.clearHistories.openRun.noBeat.Agrees t.clearHistories.openRun.noBeat :=
  of_cleared (s := s.openRun) (t := t.openRun) rfl rfl rfl cfg input

theorem reset : (applyReset s).Agrees (applyReset t) :=
  of_cleared (s := s.closeRun) (t := t.closeRun) rfl rfl rfl h.cfg h.input

end State.Agrees

section
variable {s t : State} (h : s.Agrees t)
include h

theorem demux_agrees (run : s.RUN = true) (w : Word) : outcomesAgree (demux w s) (demux w t) := by
  have run' : t.RUN = true := h.run ▸ run
  obtain ⟨n, tag⟩ | dropped := tag_cases w
  · rw [demux_of_channelTag tag, demux_of_channelTag tag, route_run run, route_run run', h.cfg]
    exact (h.appendRouted n w).emit_record n _
  · rw [demux_of_isDropped dropped, demux_of_isDropped dropped, drop_run run, drop_run run']
    exact (h.appendDropped w).noBeat

/-- A PUSH reads HOLD at phase 1 only, where the two states hold the same byte (R93). -/
theorem execPush_agrees (b : Byte) : outcomesAgree (execPush b s) (execPush b t) := by
  unfold execPush
  rw [← h.run, ← h.phase]
  cases run : s.RUN
  · exact h.noBeat
  cases phase : s.HAVE
  · exact (h.latch b).noBeat
  · rw [← h.held phase]
    exact demux_agrees (h.formWord b _) run _

theorem execCfg_agrees (ch : BitVec 2) (ty : BitVec 3) (sf : BitVec 6) (isf : F64) :
    outcomesAgree (execCfg ch ty sf isf s) (execCfg ch ty sf isf t) := by
  unfold execCfg
  rw [← h.run]
  cases typeOfCode ty with
  | none => rfl
  | some d =>
    cases scaleFinite isf
    · rfl
    cases s.RUN
    · exact (h.setCfg _ _).noBeat
    · exact h.noBeat

theorem execStart_agrees : outcomesAgree (execStart s) (execStart t) := by
  unfold execStart
  rw [← h.run]
  cases s.RUN
  · exact .of_opened h.cfg h.input
  · exact h.noBeat

theorem execEndRun_agrees : outcomesAgree (execEndRun s) (execEndRun t) := by
  unfold execEndRun
  rw [← h.run]
  cases s.RUN
  · exact h.noBeat
  · exact h.closeRun.noBeat

theorem exec_decoded_agrees {p : Input} {i : Instr} (decoded : decodeCommand p = .ok i) :
    outcomesAgree (exec i s) (exec i t) := by
  obtain ⟨-, rfl⟩ | ⟨-, cfg⟩ | ⟨-, rfl⟩ | ⟨-, rfl⟩ | ⟨-, rfl⟩ := decodeCommand_cases decoded
  · exact h.noBeat
  · obtain ⟨-, -, rfl⟩ := decodeCfg_ok cfg
    exact execCfg_agrees h ..
  · exact execStart_agrees h
  · exact execPush_agrees h _
  · exact execEndRun_agrees h

theorem step_agrees : outcomesAgree (step s) (step t) := by
  have sample : (fetch t).1 = (fetch s).1 := by
    simp only [fetch, h.input]
    split <;> rfl
  simp only [step, sample, fetch_state]
  split
  · exact h.input_tail.reset
  · cases decoded : decodeCommand (fetch s).1 with
    | ok i => exact exec_decoded_agrees h.input_tail decoded
    | error e => rfl

end

theorem outcomesAgree_cases {r q : Result} (h : outcomesAgree r q) :
    (∃ s t, r = .next s ∧ q = .next t ∧ s.Agrees t) ∨ ∃ e, r = .refused e ∧ q = .refused e := by
  cases r <;> cases q <;> simp_all [outcomesAgree]

/-! ## Runs -/

theorem run_succ_of_next {s t : State} (h : step s = .next t) (k : Nat) :
    core.run (k + 1) s = core.run k t := by
  simp only [Host.Core.run, show core.step s = .next t from h]

theorem run_succ_of_refused {s : State} {e : Refusal} (h : step s = .refused e) (k : Nat) :
    core.run (k + 1) s = .refused e := by
  simp only [Host.Core.run, show core.step s = .refused e from h]

/-- Agreement lasts through a run. -/
theorem run_agrees (k : Nat) {s t : State} (h : s.Agrees t) :
    outcomesAgree (core.run k s) (core.run k t) := by
  induction k generalizing s t with
  | zero => exact h
  | succ k ih =>
    obtain ⟨u, v, hu, hv, agree⟩ | ⟨e, hs, ht⟩ := outcomesAgree_cases (step_agrees h)
    · rw [run_succ_of_next hu, run_succ_of_next hv]
      exact ih agree
    · rw [run_succ_of_refused hs, run_succ_of_refused ht]
      rfl

theorem step_of_start {s : State} {p : Input} {rest : List Input} (idle : s.RUN = false)
    (input : s.input = p :: rest) (rst : p.rst = false) (cmd : p.cmd = 2#3) :
    step s = .next ({ s with input := rest } : State).clearHistories.openRun.noBeat := by
  simp [step, fetch, input, rst, decodeCommand, cmd, exec, execStart, idle]

end Sys2Proof.Machine

open Sys2Proof Sys2Proof.Machine

/-- Settles O53: HOLD is read by a PUSH at phase 1 only. -/
theorem unreadHoldIsHarmless : Obligations.UnreadHoldIsHarmless :=
  fun _ _ => step_agrees

/-- Settles O54: after START the two states agree, and agreement lasts. -/
theorem runForgetsThePast : Obligations.RunForgetsThePast := by
  intro s t first rest sIdle tIdle cfg sInput tInput rst cmd k
  rw [run_succ_of_next (step_of_start sIdle sInput rst cmd),
    run_succ_of_next (step_of_start tIdle tInput rst cmd)]
  exact run_agrees k (.of_opened cfg rfl)

end

section
/-! SUPPORT. The two bytes of a Word (R52, R72), and the bytes a host's commands carry (R63, R83,
R96, R155). -/

namespace Sys2Proof.Machine

/-! ## A Word and its bytes -/

theorem toNat_pairWord (hi lo : Byte) : (pairWord hi lo).toNat = 256 * hi.toNat + lo.toNat := by
  rw [pairWord, BitVec.toNat_append, ← Nat.shiftLeft_add_eq_or_of_lt lo.isLt, Nat.shiftLeft_eq,
    Nat.mul_comm]

theorem tagOf_eq_slice_hiByte (w : Word) : tagOf w = (hiByte w).extractLsb' 4 4 :=
  (slice_slice w 8 8 4 4 (by decide)).symm

/-- The magnitude straddles the two bytes: bits 11:8 in the high byte, 7:0 the low byte. -/
theorem magOf_eq_append (w : Word) :
    magOf w = ((hiByte w).extractLsb' 0 4 ++ loByte w : BitVec (4 + 8)) := by
  have high : (magOf w).extractLsb' 8 4 = (hiByte w).extractLsb' 0 4 :=
    (slice_slice w 0 12 8 4 (by decide)).trans (slice_slice w 8 8 0 4 (by decide)).symm
  have low : (magOf w).extractLsb' 0 8 = loByte w := slice_slice w 0 12 0 8 (by decide)
  rw [← high, ← low]
  exact (append_slices (a := 4) (b := 8) (magOf w)).symm

/-! ## The bytes the commands of the host carry -/

theorem withinRun_pushInput (b : Byte) : withinRun (pushInput b) = true := rfl

theorem offeredBytes_map_pushInput (bs : List Byte) : offeredBytes (bs.map pushInput) = bs :=
  List.filterMap_map.trans List.filterMap_some

theorem offeredBytes_append (ps qs : List Input) :
    offeredBytes (ps ++ qs) = offeredBytes ps ++ offeredBytes qs :=
  List.filterMap_append

theorem Transaction.bytes_eq_nil {t : Transaction} (h : t.byteCount ≤ 0) : t.bytes = [] := by
  rw [bytes, Int.toNat_of_nonpos h, List.take_zero]

theorem Transaction.commands_eq_nil {t : Transaction} (h : t.byteCount ≤ 0) : t.commands = [] := by
  rw [commands, bytes_eq_nil h, List.map_nil]

theorem Transaction.offeredBytes_commands (t : Transaction) : offeredBytes t.commands = t.bytes :=
  offeredBytes_map_pushInput t.bytes

/-- The transactions of positive count, in order, give all the bytes: the others give none. -/
theorem offeredBytes_transactionCommands (ts : List Transaction) :
    offeredBytes (transactionCommands ts) =
      (ts.filter (fun t => decide (0 < t.byteCount))).flatMap Transaction.bytes := by
  induction ts with
  | nil => rfl
  | cons t ts ih =>
    have first : offeredBytes (transactionCommands (t :: ts)) =
        t.bytes ++ offeredBytes (transactionCommands ts) := by
      rw [← t.offeredBytes_commands, ← offeredBytes_append]
      rfl
    rw [first, ih]
    by_cases count : 0 < t.byteCount
    · simp [count]
    · simp [count, Transaction.bytes_eq_nil (Int.not_lt.mp count)]

/-- Every command of a list of transactions is the PUSH of a byte. -/
theorem eq_pushInput_of_mem_transactionCommands {ts : List Transaction} {p : Input}
    (h : p ∈ transactionCommands ts) : ∃ b, p = pushInput b := by
  obtain ⟨t, -, inCommands⟩ := List.mem_flatMap.mp h
  obtain ⟨b, -, rfl⟩ := List.mem_map.mp inCommands
  exact ⟨b, rfl⟩

end Sys2Proof.Machine

open Sys2Proof Sys2Proof.Machine

/-- Settles O52: a command of a transaction is the PUSH of one of its bytes, so the commands carry
what the transactions hold. -/
theorem transactionsAreOneStream : Obligations.TransactionsAreOneStream := by
  refine fun ts => ⟨offeredBytes_transactionCommands ts, fun p inCommands => ?_,
    fun t => Transaction.commands_eq_nil⟩
  obtain ⟨b, rfl⟩ := eq_pushInput_of_mem_transactionCommands inCommands
  exact ⟨withinRun_pushInput b, rfl⟩

/-- Settles O4: the pair is a concatenation, and tag and magnitude are cut from its two bytes. -/
theorem pairIsBigEndian : Obligations.PairIsBigEndian := by
  intro hi lo
  refine ⟨rfl, toNat_pairWord hi lo, hiByte_pairWord hi lo, loByte_pairWord hi lo, ?_, ?_⟩
  · rw [tagOf_eq_slice_hiByte, hiByte_pairWord]
  · rw [magOf_eq_append, hiByte_pairWord, loByte_pairWord]

end

section
/-! SUPPORT. The decoder and the encoder against each other (30_encoding.md), and what the step and CFG
make of a decoded command. -/

namespace Sys2Proof.Machine

/-! ## The codes and the operand of CFG -/

/-- A TypeDescriptor and its code name each other (Table E2). -/
theorem typeOfCode_eq_some_iff {c : BitVec 3} {ty : TypeDescriptor} :
    typeOfCode c = some ty ↔ codeOfType ty = c := by
  revert c
  cases ty <;> decide

/-- A reserved code names no TypeDescriptor (R76). -/
theorem typeOfCode_eq_none_iff {c : BitVec 3} : typeOfCode c = none ↔ 5 ≤ c.toNat := by
  revert c
  decide

theorem scaleFinite_eq_false_iff {isf : F64} :
    scaleFinite isf = false ↔ isf.extractLsb' 52 11 = 0x7FF#11 := by
  simp [scaleFinite]

/-- The four fields of the operand are all of it: no bit of `cfg_op` lies outside them (R77). -/
theorem cfgOperand_fields (op : BitVec 75) :
    cfgOperand (cfgCh op) (cfgType op) (cfgSf op) (cfgIsf op) = op := by
  have chType : cfgCh op ++ cfgType op = op.extractLsb' 70 5 :=
    BitVec.extractLsb'_append_extractLsb'_eq_extractLsb' rfl
  have chTypeSf : op.extractLsb' 70 5 ++ cfgSf op = op.extractLsb' 64 11 :=
    BitVec.extractLsb'_append_extractLsb'_eq_extractLsb' rfl
  rw [cfgOperand, chType, chTypeSf]
  exact append_slices (a := 11) (b := 64) op

theorem decodeCfg_cfgOperand {ty : BitVec 3} {isf : F64} (legal : typeLegal ty = true)
    (finite : scaleFinite isf = true) (ch : BitVec 2) (sf : BitVec 6) :
    decodeCfg (cfgOperand ch ty sf isf) = .ok (.cfg ch ty sf isf) := by
  simp [decodeCfg, legal, finite]

theorem decodeCfg_of_legal {op : BitVec 75} (legal : typeLegal (cfgType op) = true)
    (finite : scaleFinite (cfgIsf op) = true) :
    decodeCfg op = .ok (.cfg (cfgCh op) (cfgType op) (cfgSf op) (cfgIsf op)) := by
  simpa [cfgOperand_fields] using decodeCfg_cfgOperand legal finite (cfgCh op) (cfgSf op)

theorem decodeCommand_of_cfg {p : Input} (cmd : p.cmd = 1#3) :
    decodeCommand p = decodeCfg p.cfgOp := by
  simp [decodeCommand, cmd]

/-! ## What is encoded is read back -/

theorem decodeCommand_of_encode {i : Instr} {p : Input} (wf : i.wellFormed = true)
    (encoded : encode i = .command p) : decodeCommand p = .ok i := by
  cases i with
  | cfg ch ty sf isf =>
    cases encoded
    obtain ⟨legal, finite⟩ := Bool.and_eq_true_iff.mp wf
    exact decodeCfg_cfgOperand legal finite ch sf
  | nop | start | push | endRun => cases encoded; rfl
  | _ => cases encoded

theorem decodeWord_of_encode {i : Instr} {w : Word} (encoded : encode i = .word w) :
    decodeWord w = i := by
  cases i with
  | nop | cfg | start | push | endRun => cases encoded
  | decU16 | decS16 | decU32 | decS32 | decU16O => cases encoded
  | _ => cases encoded; simp [decodeWord]

theorem decodeTyped_of_encode {i : Instr} {code : BitVec 3} {n : Channel} {w : Word}
    (encoded : encode i = .typed code n w) : decodeTyped code n w = .ok i := by
  cases i with
  | decU16 | decS16 | decU32 | decS32 | decU16O => cases encoded; rfl
  | _ => cases encoded

theorem decode_encode {i : Instr} (wf : i.wellFormed = true) : decode (encode i) = .ok i := by
  cases encoded : encode i with
  | command p => exact decodeCommand_of_encode wf encoded
  | word w => exact congrArg Except.ok (decodeWord_of_encode encoded)
  | typed code n w => exact decodeTyped_of_encode encoded

/-! ## What decodes is well formed, and encodes to what was read -/

/-- Only a CFG, which is a command, can be ill formed (R80). -/
theorem wellFormed_of_encode_ne_command {i : Instr} (h : ∀ p, encode i ≠ .command p) :
    i.wellFormed = true := by
  cases i with
  | cfg => exact absurd rfl (h _)
  | _ => rfl

/-- Each of the sixteen tags has its row (Table E1). -/
theorem encode_decodeWord (w : Word) : encode (decodeWord w) = .word w := by
  suffices ∀ t m, encode (decodeWord (wordOf t m)) = .word (wordOf t m) by
    simpa using this (tagOf w) (magOf w)
  intro t m
  simp only [decodeWord, tagOf_wordOf, magOf_wordOf]
  obtain ⟨k, small⟩ := t
  interval_cases k <;> rfl

theorem encode_decodeOperation (ty : TypeDescriptor) (n : Channel) (w : Word) :
    encode (decodeOperation ty n w) = .typed (codeOfType ty) n w := by
  cases ty <;> rfl

theorem encode_of_decodeTyped {code : BitVec 3} {n : Channel} {w : Word} {i : Instr}
    (decoded : decodeTyped code n w = .ok i) : encode i = .typed code n w := by
  unfold decodeTyped at decoded
  split at decoded
  next ty named =>
    cases decoded
    rw [encode_decodeOperation, typeOfCode_eq_some_iff.mp named]
  next => cases decoded

theorem wellFormed_of_decodeCommand {p : Input} {i : Instr} (decoded : decodeCommand p = .ok i) :
    i.wellFormed = true := by
  obtain ⟨-, rfl⟩ | ⟨-, cfg⟩ | ⟨-, rfl⟩ | ⟨-, rfl⟩ | ⟨-, rfl⟩ := decodeCommand_cases decoded
  case inr.inl =>
    obtain ⟨legal, finite, rfl⟩ := decodeCfg_ok cfg
    exact Bool.and_eq_true_iff.mpr ⟨legal, finite⟩
  all_goals rfl

/-- The encoding of a decoded command has its code and the data port that it reads (R75). -/
theorem encode_of_decodeCommand {p : Input} {i : Instr} (decoded : decodeCommand p = .ok i) :
    ∃ q : Input, encode i = .command q ∧ q.rst = false ∧ q.cmd = p.cmd ∧
      (p.cmd = 1#3 → q.cfgOp = p.cfgOp) ∧ (p.cmd = 3#3 → q.inData = p.inData) := by
  obtain ⟨cmd, rfl⟩ | ⟨cmd, cfg⟩ | ⟨cmd, rfl⟩ | ⟨cmd, rfl⟩ | ⟨cmd, rfl⟩ := decodeCommand_cases decoded
  case inr.inl =>
    obtain ⟨-, -, rfl⟩ := decodeCfg_ok cfg
    exact ⟨_, rfl, rfl, cmd.symm, fun _ => cfgOperand_fields p.cfgOp, by simp [cmd]⟩
  all_goals exact ⟨_, rfl, rfl, cmd.symm, by simp [cmd], by simp [cmd, commandInput]⟩

/-! ## The step and CFG -/

theorem step_of_decoded {s : State} {i : Instr} (rst : (fetch s).1.rst = false)
    (decoded : decodeCommand (fetch s).1 = .ok i) : step s = exec i (fetch s).2 := by
  simp [step, rst, decoded]

theorem fetch_of_cons {s : State} {p : Input} {rest : List Input} (input : s.input = p :: rest) :
    fetch s = (p, { s with input := rest }) := by
  simp [fetch, input]

theorem fetch_of_nil {s : State} (input : s.input = []) : fetch s = (idleInput, s) := by
  simp [fetch, input]

theorem execCfg_of_reservedType {ty : BitVec 3} (reserved : 5 ≤ ty.toNat) (ch : BitVec 2)
    (sf : BitVec 6) (isf : F64) (s : State) :
    execCfg ch ty sf isf s = .refused (.reservedType ty) := by
  simp [execCfg, typeOfCode_eq_none_iff.mpr reserved]

theorem execCfg_of_nonFiniteScale {ty : BitVec 3} {isf : F64} (legal : typeLegal ty = true)
    (nonFinite : scaleFinite isf = false) (ch : BitVec 2) (sf : BitVec 6) (s : State) :
    execCfg ch ty sf isf s = .refused (.nonFiniteScale isf) := by
  obtain ⟨d, named, -⟩ := typeOfCode_of_legal ty legal
  simp [execCfg, named, nonFinite]

end Sys2Proof.Machine

open Sys2Proof Sys2Proof.Machine

/-- Settles O2: each of the three decoders reads back what the encoder writes in its format. -/
theorem encodedInstructionDecodes : Obligations.EncodedInstructionDecodes :=
  fun _ => decode_encode

/-- Settles O3: by the format of the item; the reserved codes and scales do not decode. -/
theorem decodedItemIsReencoded : Obligations.DecodedItemIsReencoded := by
  intro x i decoded
  cases x with
  | command p => exact ⟨wellFormed_of_decodeCommand decoded, encode_of_decodeCommand decoded⟩
  | word w =>
    cases decoded
    have encoded := encode_decodeWord w
    exact ⟨wellFormed_of_encode_ne_command (by simp [encoded]), encoded⟩
  | typed code n w =>
    have encoded := encode_of_decodeTyped decoded
    exact ⟨wellFormed_of_encode_ne_command (by simp [encoded]), encoded⟩

/-- Settles O1: the seven items are closed, and the decoder evaluates on each. -/
theorem writtenWordsDecode : Obligations.WrittenWordsDecode := by
  unfold Obligations.WrittenWordsDecode
  decide

/-- Settles O5: the exponent of the scale, cut from the operand or from its field `isf`, is the same
slice, so the operand is legal and its fields are read. -/
theorem cfgOperandFields : Obligations.CfgOperandFields := by
  refine ⟨fun p cmd legal finite => ?_, by decide⟩
  have exponent : (cfgIsf p.cfgOp).extractLsb' 52 11 = p.cfgOp.extractLsb' 52 11 :=
    slice_slice p.cfgOp 0 64 52 11 (by decide)
  exact (decodeCommand_of_cfg cmd).trans
    (decodeCfg_of_legal (decide_eq_true legal) (bne_iff_ne.mpr (exponent ▸ finite)))

/-- Settles O9: the sample fetched is the head of the list, or NOP where there is none. -/
theorem stepRunsDecodedCommand : Obligations.StepRunsDecodedCommand := by
  refine ⟨fun s p rest i input rst decoded => ?_, fun s input => ?_⟩
  · have fetched := fetch_of_cons input
    rw [step_of_decoded (i := i) (by rwa [fetched]) (by rwa [fetched]), fetched]
  · have fetched := fetch_of_nil input
    rw [step_of_decoded (i := .nop) (by rw [fetched]; rfl) (by rw [fetched]; rfl), fetched]

/-- Settles O16: the type code is judged before the scale. -/
theorem cfgRefusesIllegalOperand : Obligations.CfgRefusesIllegalOperand :=
  fun s ch _ sf isf =>
    ⟨fun reserved => execCfg_of_reservedType reserved ch sf isf s,
      fun legal infinite => execCfg_of_nonFiniteScale (decide_eq_true legal)
        (scaleFinite_eq_false_iff.mpr infinite) ch sf s⟩

/-- Settles O55: raising ParseError emits one record, and its cause code 1 is the data of the beat. -/
theorem parseErrorEntry : Obligations.ParseErrorEntry := by
  refine fun s n w => ⟨rfl, ?_, fun k other => get_push_other _ _ other⟩
  simp [State.idx]

end

section
/-! SUPPORT. The assembler (40_assembler.md): the batch function byte by byte, PUSH in its three cases,
and the step that completes a Word or takes any other legal input. -/

namespace Sys2Proof.Machine

/-! ## The batch assembler -/

theorem length_assemble (bs : List Byte) : (assemble bs).length = bs.length / 2 := by
  match bs with
  | [] | [_] => simp [assemble]
  | _ :: _ :: rest =>
    simp only [assemble, List.length_cons, length_assemble rest]
    omega

/-- Word k is formed of bytes 2k and 2k + 1, and exists where both do (R90). -/
theorem getElem?_assemble (bs : List Byte) (k : Nat) :
    (assemble bs)[k]? = bs[2 * k]?.bind fun hi => bs[2 * k + 1]?.map (pairWord hi) := by
  match bs, k with
  | [], _ | [_], _ => simp [assemble]
  | _ :: _ :: _, 0 => simp [assemble]
  | _ :: _ :: rest, k + 1 => simp [assemble, Nat.mul_succ, getElem?_assemble rest k]

/-! ## PUSH -/

theorem decodeCommand_of_push (p : Input) (cmd : p.cmd = 3#3) :
    decodeCommand p = .ok (.push p.inData) := by
  simp [decodeCommand, cmd]

theorem exec_push_idle {s : State} (idle : s.RUN = false) (b : Byte) :
    exec (.push b) s = .next s.noBeat := by
  simp [exec, execPush, idle]

theorem exec_push_phase_zero {s : State} (run : s.RUN = true) (phase : s.HAVE = false) (b : Byte) :
    exec (.push b) s = .next (s.latch b).noBeat := by
  simp [exec, execPush, run, phase]

/-- The Word of the held byte and this one is handed to the demultiplexer in the same step (R93). -/
theorem exec_push_phase_one {s : State} (run : s.RUN = true) (phase : s.HAVE = true) (b : Byte) :
    exec (.push b) s =
      exec (decodeWord (pairWord s.HOLD b)) (s.formWord b (pairWord s.HOLD b)) := by
  rw [← demux_eq_exec]
  simp [exec, execPush, run, phase]

/-! ## The Word operations -/

theorem exec_decodeWord_idle {s : State} (idle : s.RUN = false) (w : Word) :
    exec (decodeWord w) s = .next s.noBeat := by
  rw [← demux_eq_exec, demux_idle idle]

/-- In a run every Word is taken, and presents a beat where it is routed (R102 to R106). -/
theorem exec_decodeWord_run {s : State} (run : s.RUN = true) (w : Word) :
    ∃ t, exec (decodeWord w) s = .next t ∧ (t.beat ≠ none ↔ isDropped w = false) := by
  rw [← demux_eq_exec]
  obtain ⟨n, tag, routed⟩ | ⟨dropped, taken⟩ := demux_run run w
  · have kept : isDropped w = false :=
      Bool.eq_false_iff.mpr fun dropped => (isDropped_iff w).mp dropped n tag
    exact ⟨_, routed, by simp [kept]⟩
  · exact ⟨_, taken, by simp [dropped]⟩

theorem isDropped_eq_false_iff (w : Word) :
    isDropped w = false ↔
      tagOf w = 0x3#4 ∨ tagOf w = 0x7#4 ∨ tagOf w = 0xB#4 ∨ tagOf w = 0xE#4 := by
  simp only [isDropped, decide_eq_false_iff_not]
  tauto

/-! ## What a step takes and what it refuses -/

theorem step_of_rejected {s : State} {e : Reject} (rst : (fetch s).1.rst = false)
    (rejected : decodeCommand (fetch s).1 = .error e) : step s = .refused (refusalOf e) := by
  simp [step, rst, rejected]

/-- An illegal input is a command that does not decode, presented with rst low. -/
theorem legalInput_eq_false_iff (p : Input) :
    legalInput p = false ↔ p.rst = false ∧ ∃ e, decodeCommand p = .error e := by
  unfold legalInput
  cases decodeCommand p <;> simp [Except.isOk, Except.toBool]

theorem step_of_legal {s : State} (legal : legalInput (fetch s).1 = true) :
    ∃ t, step s = .next t := by
  obtain ⟨e, rst, rejected, -⟩ | ⟨t, next, -⟩ := step_cases s
  · have illegal := (legalInput_eq_false_iff _).mpr ⟨rst, e, rejected⟩
    rw [legal] at illegal
    cases illegal
  · exact ⟨t, next⟩

theorem step_ne_fault (s : State) (f : Fault) : step s ≠ .fault f := by
  obtain ⟨e, -, -, refused⟩ | ⟨t, next, -⟩ := step_cases s
  · simp [refused]
  · simp [next]

end Sys2Proof.Machine

open Sys2Proof Sys2Proof.Machine

/-- Settles O12: a legal input is a reset or decodes, and what decodes is taken; what does not decode
is refused by its name. -/
theorem everyCommandIsTaken : Obligations.EveryCommandIsTaken := by
  refine fun s => ⟨step_of_legal, fun illegal => ?_, step_ne_fault s⟩
  obtain ⟨rst, e, rejected⟩ := (legalInput_eq_false_iff _).mp illegal
  exact ⟨_, step_of_rejected rst rejected⟩

/-- Settles O20: the frame is that of every Word operation, on the state in which the Word is formed. -/
theorem pushFormsWord : Obligations.PushFormsWord := by
  refine ⟨decodeCommand_of_push, fun s b run phase => ?_⟩
  have handed := exec_push_phase_one run phase b
  refine ⟨handed, ?_⟩
  obtain ⟨t, next, beat⟩ :=
    exec_decodeWord_run (s := s.formWord b (pairWord s.HOLD b)) run (pairWord s.HOLD b)
  obtain ⟨tRun, tHave, tHold, tCfg, tBuf, tWords, tInput⟩ :=
    wordAndDecodeFrame _ _ _ (.inl ⟨_, rfl⟩) next
  exact ⟨t, handed.trans next, tRun.trans run, tHave, tHold, tCfg, tBuf, tWords, tInput,
    beat.trans (isDropped_eq_false_iff _)⟩

/-- Settles O50: bytes 2k and 2k + 1 determine Word k, and an odd last byte is no pair. -/
theorem assemblePairsDisjointly : Obligations.AssemblePairsDisjointly :=
  fun bs => ⟨length_assemble bs, fun k hi lo first second => by
    simp [getElem?_assemble, first, second]⟩

/-- Settles O10: the sample decodes to a PUSH, which at phase 1 runs the Word it forms. -/
theorem stepRunsFormedWord : Obligations.StepRunsFormedWord := by
  intro s p rest input rst cmd run phase
  have fetched := fetch_of_cons input
  rw [step_of_decoded (i := .push p.inData) (by rwa [fetched])
    (by rw [fetched]; exact decodeCommand_of_push p cmd), fetched]
  exact exec_push_phase_one (s := { s with input := rest }) run phase p.inData

/-- Settles O19: at phase 0 of a run the byte is latched, whatever it is. -/
theorem pushHoldsFirstByte : Obligations.PushHoldsFirstByte :=
  ⟨decodeCommand_of_push, fun _ b run phase => exec_push_phase_zero run phase b⟩

/-- Settles O21: PUSH tests RUN before it looks at the phase. -/
theorem pushWhileIdleIgnored : Obligations.PushWhileIdleIgnored :=
  ⟨decodeCommand_of_push, fun _ b idle => exec_push_idle idle b⟩

/-- Settles O24: a Word is routed or dropped, and neither takes place outside a run. -/
theorem wordOperationsNeedARun : Obligations.WordOperationsNeedARun :=
  fun _ w idle => exec_decodeWord_idle idle w

end

section
/-! SUPPORT. The demultiplexer (41_demux.md): the Word operations by tag and mask, the routing of a
sequence of Words, and the scope of a malformed word text (R167). -/

namespace Sys2Proof.Machine

/-! ## The Word operations -/

/-- The mask of format W keeps the tag (R84). -/
@[simp] theorem tagOf_mask (w : Word) : tagOf (w &&& 0xF000#16) = tagOf w :=
  BitVec.extractLsb'_and.trans (BitVec.and_allOnes (x := tagOf w))

theorem eq_wordOf_of_mask {w : Word} {t : Tag} (mask : w &&& 0xF000#16 = wordOf t 0#12) :
    w = wordOf t (magOf w) := by
  have tag : tagOf w = t := by simpa using congrArg tagOf mask
  rw [← tag, wordOf_tagOf_magOf]

/-- A Word under whose mask a row's tag stands decodes to that row of its own magnitude. -/
theorem decodeWord_of_mask {w : Word} (row : Mag → Instr) (t : Tag)
    (encoded : encode (row (magOf w)) = .word (wordOf t (magOf w)))
    (mask : w &&& 0xF000#16 = wordOf t 0#12) : decodeWord w = row (magOf w) :=
  decodeWord_of_encode (encoded.trans (congrArg _ (eq_wordOf_of_mask mask).symm))

/-- What a channel's records and beat show of a routed Word (R102 to R105). -/
theorem route_eq_afterRoute {s : State} (run : s.RUN = true) (n : Channel) (w : Word) :
    route n w s = .next (afterRoute s n (channelMark n) w) :=
  route_run run n w

/-- A routed Word is handed to the operation of the channel's TYPE, which routing leaves as it was
(R101, R115). -/
theorem route_eq_decodeAs {s : State} (run : s.RUN = true) (n : Channel) (w : Word) :
    route n w s = decodeAs (s.CFG.get n).ty n w (s.routed n w) := by
  simp [route, State.wordTaken, run, decodeStage_eq]

/-! ## The routing of a sequence -/

/-- Every Word adds to one of the five subsequences and to no other (R108). -/
theorem length_channelWords_add_droppedWords (ws : List Word) :
    (channelWords .ch1 ws).length + (channelWords .ch2 ws).length +
      (channelWords .ch3 ws).length + (channelWords .ch4 ws).length +
      (droppedWords ws).length = ws.length := by
  induction ws using List.reverseRecOn with
  | nil => rfl
  | append_singleton ws w ih =>
    obtain ⟨n, tag⟩ | dropped := tag_cases w
    · simp only [channelWords_snoc_routed tag, droppedWords_snoc_routed tag, List.length_append]
      cases n <;> simp <;> omega
    · simp only [channelWords_snoc_dropped dropped, droppedWords_snoc_dropped dropped,
        List.length_append]
      omega

/-! ## One word text of a run -/

/-- The record of a word text: whether it parses is the text's own affair, and so is its value under
the channel's configuration (R167). -/
def textRecordUnder (c : ChannelConfig) (t : WordText) : Record WordText :=
  match parseResidual t with
  | none => .err t 1#8
  | some v => .val t (decodeMagnitude v c.ty c.sf c.isf)

/-- The report due for the word text `t` at index `i` of channel n: none where it parses (R166). -/
def textReport (n : Channel) (i : Nat) (t : WordText) : List ParseError :=
  if parseResidual t = none then [{ channel := n, index := i, text := t }] else []

theorem mem_textReport {e : ParseError} {n : Channel} {i : Nat} {t : WordText} :
    e ∈ textReport n i t ↔
      (e.channel = n ∧ e.index = i ∧ e.text = t) ∧ parseResidual e.text = none := by
  obtain ⟨k, j, x⟩ := e
  unfold textReport
  split
  next unparsed =>
    simp only [List.mem_singleton, ParseError.mk.injEq]
    refine ⟨?_, And.left⟩
    rintro ⟨rfl, rfl, rfl⟩
    exact ⟨⟨rfl, rfl, rfl⟩, unparsed⟩
  next parsed =>
    simp only [List.not_mem_nil, false_iff]
    rintro ⟨⟨rfl, rfl, rfl⟩, unparsed⟩
    exact parsed unparsed

theorem textRecord_eq (n : Channel) (i : Nat) (t : WordText) (c : ChannelConfig) :
    textRecord n i t c = textRecordUnder c t := by
  unfold textRecord textRecordUnder
  cases residual : parseResidual t with
  | none => rw [decodeText_of_unparsed residual]; rfl
  | some v => rw [decodeText_of_parsed residual]

theorem textStep_of_dropped {t : WordText} (dropped : textChannel t = none)
    (cfg : PerChannel ChannelConfig) (r : TextRun) :
    textStep cfg r t = { r with DROPPED := r.DROPPED ++ [t] } := by
  simp [textStep, dropped]

theorem textStep_of_routed {t : WordText} {n : Channel} (routed : textChannel t = some n)
    (cfg : PerChannel ChannelConfig) (r : TextRun) :
    textStep cfg r t =
      { r with
        CHW := r.CHW.push n t
        OUT := r.OUT.push n (textRecordUnder (cfg.get n) t)
        errors := r.errors ++ textReport n (r.OUT.get n).length t } := by
  cases residual : parseResidual t with
  | none =>
    simp [textStep, routed, textRecord_eq, decodeText_of_unparsed residual, textReport, residual]
  | some v =>
    simp [textStep, routed, textRecord_eq, decodeText_of_parsed residual, textReport, residual]

/-! ## A text-level run -/

/-- What a text-level run has left after the word texts `ts` (R110, R167). -/
structure TextRun.Scoped (cfg : PerChannel ChannelConfig) (ts : List WordText) (r : TextRun) :
    Prop where
  texts_routed : ∀ n, r.CHW.get n = ts.filter fun t => decide (textChannel t = some n)
  texts_dropped : r.DROPPED = ts.filter fun t => decide (textChannel t = none)
  records : ∀ n, r.OUT.get n = (r.CHW.get n).map (textRecordUnder (cfg.get n))
  reports : ∀ e : ParseError, e ∈ r.errors ↔
    (r.CHW.get e.channel)[e.index]? = some e.text ∧ parseResidual e.text = none

theorem TextRun.Scoped.nil (cfg : PerChannel ChannelConfig) : TextRun.empty.Scoped cfg [] where
  texts_routed := by simp [TextRun.empty]
  texts_dropped := rfl
  records := by simp [TextRun.empty]
  reports := by simp [TextRun.empty]

theorem getElem?_snoc_eq_some_iff {α : Type} {l : List α} {a x : α} {j : Nat} :
    (l ++ [a])[j]? = some x ↔ l[j]? = some x ∨ (j = l.length ∧ x = a) := by
  grind

section
variable {cfg : PerChannel ChannelConfig} {ts : List WordText} {r : TextRun} (h : r.Scoped cfg ts)
include h

/-- A dropped word text leaves records and reports alone. -/
theorem TextRun.Scoped.snoc_dropped {t : WordText} (dropped : textChannel t = none) :
    (textStep cfg r t).Scoped cfg (ts ++ [t]) := by
  rw [textStep_of_dropped dropped]
  exact
    { texts_routed := fun n => by simp [h.texts_routed, dropped]
      texts_dropped := by simp [h.texts_dropped, dropped]
      records := h.records
      reports := h.reports }

/-- A routed word text is the last of its channel, and so are its record and its report. -/
theorem TextRun.Scoped.snoc_routed {t : WordText} {n : Channel} (routed : textChannel t = some n) :
    (textStep cfg r t).Scoped cfg (ts ++ [t]) := by
  have index : (r.OUT.get n).length = (r.CHW.get n).length := by simp [h.records]
  rw [textStep_of_routed routed, index]
  refine ⟨fun k => ?_, ?_, fun k => ?_, fun e => ?_⟩
  · by_cases same : k = n
    · simp [same, h.texts_routed, routed]
    · simp [get_push_other _ _ same, h.texts_routed, routed, Ne.symm same]
  · simp [h.texts_dropped, routed]
  · by_cases same : k = n
    · simp [same, h.records]
    · simp [get_push_other _ _ same, h.records]
  · rw [List.mem_append, h.reports, mem_textReport, ← or_and_right]
    refine and_congr_left fun _ => ?_
    by_cases same : e.channel = n
    · simp [same, getElem?_snoc_eq_some_iff]
    · simp [same, get_push_other _ _ same]

end

theorem textRun_snoc (cfg : PerChannel ChannelConfig) (ts : List WordText) (t : WordText) :
    textRun cfg (ts ++ [t]) = textStep cfg (textRun cfg ts) t :=
  List.foldl_append

theorem textRun_scoped (cfg : PerChannel ChannelConfig) (ts : List WordText) :
    (textRun cfg ts).Scoped cfg ts := by
  induction ts using List.reverseRecOn with
  | nil => exact .nil cfg
  | append_singleton ts t ih =>
    rw [textRun_snoc]
    cases route : textChannel t with
    | none => exact ih.snoc_dropped route
    | some n => exact ih.snoc_routed route

end Sys2Proof.Machine

open Sys2Proof Sys2Proof.Machine

/-- Settles O27: the four tags differ, and each Word is in one of the five subsequences. -/
theorem routingIsAPartition : Obligations.RoutingIsAPartition :=
  ⟨fun w => ⟨isDropped_iff w, fun _ _ hn hk => channelTag_inj.mp (hn.symm.trans hk)⟩,
    length_channelWords_add_droppedWords⟩

/-- Settles O59: each word text of a run keeps the lists, records and reports in step. -/
theorem parseErrorIsScoped : Obligations.ParseErrorIsScoped := by
  intro cfg ts
  have inv := textRun_scoped cfg ts
  exact ⟨fun n => ⟨inv.texts_routed n, inv.records n⟩, inv.texts_dropped, inv.reports⟩

/-- Settles O22: the mask leaves the tag, and each ROUTE routes its Word to its channel. -/
theorem routeAppendsAndDecodes : Obligations.RouteAppendsAndDecodes := by
  refine ⟨fun w => ⟨?_, ?_, ?_, ?_⟩, fun s m run => ⟨?_, ?_, ?_, ?_⟩⟩
  · exact decodeWord_of_mask .route1 0x3#4 rfl
  · exact decodeWord_of_mask .route2 0x7#4 rfl
  · exact decodeWord_of_mask .route3 0xB#4 rfl
  · exact decodeWord_of_mask .route4 0xE#4 rfl
  · exact route_eq_afterRoute run .ch1 _
  · exact route_eq_afterRoute run .ch2 _
  · exact route_eq_afterRoute run .ch3 _
  · exact route_eq_afterRoute run .ch4 _

/-- Settles O23: the mask leaves the tag, and each of the twelve DROP rows drops its Word. -/
theorem dropOnlyRecordsTheWord : Obligations.DropOnlyRecordsTheWord := by
  refine ⟨fun w => ?_, fun s m run => ?_⟩
  · exact ⟨decodeWord_of_mask .drop0 0x0#4 rfl, decodeWord_of_mask .drop1 0x1#4 rfl,
      decodeWord_of_mask .drop2 0x2#4 rfl, decodeWord_of_mask .drop4 0x4#4 rfl,
      decodeWord_of_mask .drop5 0x5#4 rfl, decodeWord_of_mask .drop6 0x6#4 rfl,
      decodeWord_of_mask .drop8 0x8#4 rfl, decodeWord_of_mask .drop9 0x9#4 rfl,
      decodeWord_of_mask .dropA 0xA#4 rfl, decodeWord_of_mask .dropC 0xC#4 rfl,
      decodeWord_of_mask .dropD 0xD#4 rfl, decodeWord_of_mask .dropF 0xF#4 rfl⟩
  · have dropped (t : Tag) := drop_run run (wordOf t m)
    exact ⟨dropped _, dropped _, dropped _, dropped _, dropped _, dropped _,
      dropped _, dropped _, dropped _, dropped _, dropped _, dropped _⟩

/-- Settles O25: the ROUTE of the Word's channel runs the operation that TYPE selects. -/
theorem routeRunsSelectedOperation : Obligations.RouteRunsSelectedOperation := by
  intro s n w run tag
  rw [← demux_eq_exec, demux_of_channelTag tag, route_eq_decodeAs run, exec_decodeOperation]
  rfl

end

section
/-! SUPPORT. Steps 3 to 6 of the decode (R118 to R122, Table F2): V3 as a function of the magnitude, the
floor shift, the residual text of a Word, and the statements that speak of no product. -/

namespace Sys2Proof.Machine

/-! ## V3 as a function of the magnitude -/

theorem stepV_le (w : Word) : stepV w ≤ 4095 :=
  Nat.le_of_lt_succ (magOf w).isLt

theorem magnitude_range (w : Word) :
    0 ≤ ((w.extractLsb' 0 12).toNat : Int) ∧ ((w.extractLsb' 0 12).toNat : Int) ≤ 4095 :=
  ⟨Int.natCast_nonneg _, mod_cast stepV_le w⟩

/-- Steps 3 and 4 multiply, step 5 subtracts (R119 to R121). -/
theorem codeV3_eq (v : Nat) (ty : TypeDescriptor) :
    codeV3 v ty = 2 ^ (4 + shiftConstant ty) * v - offsetConstant ty := by
  simp only [codeV3, stepV3, stepV2, stepV1, pow_add]
  push_cast
  ring

theorem codeV3_unsigned16 (v : Nat) : codeV3 v .unsigned16 = 16 * v := by
  simp [codeV3_eq, shiftConstant, offsetConstant]

theorem codeV3_signed16 (v : Nat) : codeV3 v .signed16 = 16 * v - 32768 := by
  simp [codeV3_eq, shiftConstant, offsetConstant]

theorem codeV3_unsigned32 (v : Nat) : codeV3 v .unsigned32 = 1048576 * v := by
  simp [codeV3_eq, shiftConstant, offsetConstant]

theorem codeV3_signed32 (v : Nat) : codeV3 v .signed32 = 1048576 * v - 2147483648 := by
  simp [codeV3_eq, shiftConstant, offsetConstant]

theorem codeV3_unsigned16Offset (v : Nat) : codeV3 v .unsigned16Offset = 16 * v - 6554 := by
  simp [codeV3_eq, shiftConstant, offsetConstant]

/-- V3 of every Word fits 33 bits, and its negative values 32 (Table F2, R127, R136). -/
theorem codeV3_range (w : Word) (ty : TypeDescriptor) :
    -2 ^ 31 ≤ codeV3 (stepV w) ty ∧ codeV3 (stepV w) ty < 2 ^ 32 := by
  have small := stepV_le w
  cases ty
  case unsigned16 => rw [codeV3_unsigned16]; omega
  case signed16 => rw [codeV3_signed16]; omega
  case unsigned32 => rw [codeV3_unsigned32]; omega
  case signed32 => rw [codeV3_signed32]; omega
  case unsigned16Offset => rw [codeV3_unsigned16Offset]; omega

/-! ## The floor shift -/

theorem shr_eq_floor (x : Int) (k : Nat) : shr x k = ⌊(x : ℚ) / 2 ^ k⌋ := by
  have floor := Rat.floor_intCast_div_natCast x (2 ^ k)
  push_cast at floor
  exact floor.symm

@[simp] theorem shr_zero (x : Int) : shr x 0 = x := by
  simp [shr]

theorem shr_nonneg {x : Int} (h : 0 ≤ x) (k : Nat) : 0 ≤ shr x k :=
  Int.ediv_nonneg h (by positivity)

theorem shr_neg {x : Int} (h : x < 0) (k : Nat) : shr x k < 0 :=
  Int.ediv_neg_of_neg_of_pos h (by positivity)

theorem shr_le_self {x : Int} (h : 0 ≤ x) (k : Nat) : shr x k ≤ x :=
  Int.ediv_le_self _ h

theorem self_le_shr {x : Int} (h : x < 0) (k : Nat) : x ≤ shr x k := by
  have one_le : (1 : Int) ≤ 2 ^ k := one_le_pow₀ one_le_two
  rw [shr, Int.le_ediv_iff_mul_le (by positivity)]
  nlinarith

theorem abs_shr_le (x : Int) (k : Nat) : |shr x k| ≤ |x| := by
  obtain h | h := le_or_gt 0 x
  · rw [abs_of_nonneg h, abs_of_nonneg (shr_nonneg h k)]
    exact shr_le_self h k
  · rw [abs_of_neg h, abs_of_neg (shr_neg h k)]
    exact neg_le_neg (self_le_shr h k)

/-- A shift by the width leaves the sign (R136). -/
theorem shr_of_width {x : Int} {k : Nat} (low : -2 ^ k ≤ x) (high : x < 2 ^ k) :
    shr x k = if 0 ≤ x then 0 else -1 := by
  split
  next h => exact Int.ediv_eq_zero_of_lt h high
  next h =>
    have floor : -1 ≤ shr x k := by
      rw [shr, Int.le_ediv_iff_mul_le (by positivity)]
      linarith
    have negative := shr_neg (not_le.mp h) k
    omega

/-- So does every shift by more than the width. -/
theorem shr_of_width_le {x : Int} {j k : Nat} (low : -2 ^ j ≤ x) (high : x < 2 ^ j) (h : j ≤ k) :
    shr x k = if 0 ≤ x then 0 else -1 := by
  have grows : (2 : Int) ^ j ≤ 2 ^ k := pow_le_pow_right₀ one_le_two h
  exact shr_of_width (by omega) (by omega)

/-- A shift takes powers of two off a product as long as it has some. -/
theorem shr_two_pow_mul {j k : Nat} (h : k ≤ j) (x : Int) : shr (2 ^ j * x) k = 2 ^ (j - k) * x := by
  rw [shr, ← Nat.add_sub_of_le h, pow_add, mul_assoc, Int.mul_ediv_cancel_left _ (by positivity),
    Nat.add_sub_cancel_left]

/-- A shift by at least the width answers −1 exactly where its operand is negative. -/
theorem shr_of_width_le_ite {x : Int} {j k : Nat} {p : Prop} [Decidable p] (low : -2 ^ j ≤ x)
    (high : x < 2 ^ j) (h : j ≤ k) (sign : p ↔ x < 0) : shr x k = if p then -1 else 0 := by
  rw [shr_of_width_le low high h]
  simp only [sign, ← not_lt, ite_not]

theorem stepV4_zero (x : Int) : stepV4 x 0#6 = x :=
  shr_zero x

/-- The magnitude of V4, from which every integer of step 7 is exact (R125, R126). -/
theorem abs_stepV4_lt (w : Word) (ty : TypeDescriptor) (sf : BitVec 6) :
    |stepV4 (codeV3 (stepV w) ty) sf| < 2 ^ 32 := by
  obtain ⟨low, high⟩ := codeV3_range w ty
  exact (abs_shr_le _ _).trans_lt (abs_lt.mpr ⟨by omega, high⟩)

/-! ## The datapath of 33 bits -/

theorem toInt_ofInt_33 {x : Int} (low : -2 ^ 32 ≤ x) (high : x < 2 ^ 32) :
    (BitVec.ofInt 33 x).toInt = x := by
  rw [BitVec.toInt_ofInt]
  exact Int.bmod_eq_of_le (by omega) (by omega)

theorem shr_min_33 {x : Int} (low : -2 ^ 32 ≤ x) (high : x < 2 ^ 32) (k : Nat) :
    shr x (min k 33) = shr x k := by
  obtain h | h := le_total k 33
  · rw [min_eq_left h]
  · rw [min_eq_right h, shr_of_width_le low high (by omega : 32 ≤ 33),
      shr_of_width_le low high (by omega : 32 ≤ k)]

/-! ## The residual text of a Word -/

theorem hexval_hexdigit (k : BitVec 4) : hexval (hexdigit k) = some k.toNat :=
  (hexval_eq_some_iff _ _).mpr ⟨k.isLt, .inl ((eq_hexdigit_iff k _).mp rfl)⟩

/-- The three hex digits of the residual are the nibbles of the magnitude (R10, R118). -/
theorem parseResidual_textOf (w : Word) : parseResidual (textOf w) = some (stepV w) := by
  rw [parseResidual_eq_some (hexval_hexdigit _) (hexval_hexdigit _) (hexval_hexdigit _)]
  simp only [stepV, magOf, BitVec.extractLsb'_toNat, Nat.shiftRight_eq_div_pow, Option.some.injEq]
  omega

end Sys2Proof.Machine

open Sys2Proof Sys2Proof.Machine

/-- Settles O36: Lean's integer division by a positive divisor is the floor. -/
theorem shiftIsFloor : Obligations.ShiftIsFloor :=
  ⟨fun x k => ⟨shr_eq_floor x k, (shr_nonneg · k), (shr_neg · k)⟩, fun x sf => shr_eq_floor x sf.toNat,
    by decide, by decide, by decide, by decide⟩

/-- Settles O37: V3 is linear in the magnitude, and the shift moves it toward zero or minus one. -/
theorem intermediateRanges : Obligations.IntermediateRanges := by
  refine ⟨fun v => ?_, by decide, fun v bound => ?_, by decide, fun w ty sf => ?_⟩
  · simp only [codeV3_unsigned16, codeV3_signed16, codeV3_unsigned32, codeV3_signed32,
      codeV3_unsigned16Offset, true_and]
    omega
  · simp only [codeV3_unsigned16, codeV3_signed16, codeV3_unsigned32, codeV3_signed32,
      codeV3_unsigned16Offset]
    omega
  · obtain ⟨low, high⟩ := codeV3_range w ty
    refine ⟨?_, fun h => ⟨shr_nonneg h _, shr_le_self h _⟩,
      fun h => ⟨self_le_shr h _, Int.le_sub_one_of_lt (shr_neg h _)⟩, abs_shr_le _ _,
      abs_lt.mpr ⟨by omega, high⟩⟩
    rintro rfl
    exact stepV4_zero _

/-- Settles O38: V3 is narrower than every count from 32 on. -/
theorem largeShiftCounts : Obligations.LargeShiftCounts := by
  intro w ty sf
  obtain ⟨low, high⟩ := codeV3_range w ty
  refine ⟨fun count => shr_of_width_le (by omega) high count, ?_, shr_eq_floor _ _⟩
  rintro rfl
  exact stepV4_zero _

/-- Settles O39: V3 fits 33 bits, and a count beyond the width leaves the sign as 33 does. -/
theorem datapath33Suffices : Obligations.Datapath33Suffices := by
  intro w ty sf
  obtain ⟨low, high⟩ := codeV3_range w ty
  have low33 : -2 ^ 32 ≤ codeV3 (stepV w) ty := by omega
  rw [BitVec.toInt_sshiftRight, toInt_ofInt_33 low33 high, Int.shiftRight_eq_div_pow]
  exact_mod_cast shr_min_33 low33 high sf.toNat

/-- Settles O57: the residual parses to the magnitude. -/
theorem textDecodeAgrees : Obligations.TextDecodeAgrees :=
  fun n i w c => decodeText_of_parsed (parseResidual_textOf w) n i c

/-- Settles O34: steps 1 and 2 keep the magnitude alone. -/
theorem decodeIgnoresTheTag : Obligations.DecodeIgnoresTheTag := by
  intro t u m ty sf isf
  simp [decodeValue, stepV]

/-- Settles O35: Table F1 by evaluation. -/
theorem descriptorConstants : Obligations.DescriptorConstants := by
  unfold Obligations.DescriptorConstants
  decide

end

section
/-! SUPPORT. The rounding of a significand (R125, G2): it is the nearest integer, ties to even; the finite
numbers lie on the grid of its quantum or below its binade; and where the packed pattern overflows. -/

namespace Sys2Proof.Machine

/-! ## Rounding to an integer -/

/-- The integer `n` is nearest to `t`, and it is even where `t` lies halfway between two integers. -/
structure RoundsToEven (t : ℚ) (n : Nat) : Prop where
  near : |t - n| ≤ 1 / 2
  tie : |t - n| = 1 / 2 → n % 2 = 0

theorem roundsToEven_self (n : Nat) : RoundsToEven n n where
  near := by norm_num
  tie h := by norm_num at h

/-- A quotient rounds to `n` when twice the remainder of `n` is at most the divisor. -/
theorem roundsToEven_div {m n d : Nat} (pos : 0 < d) (near : 2 * |(m : Int) - n * d| ≤ d)
    (tie : 2 * |(m : Int) - n * d| = d → n % 2 = 0) : RoundsToEven (m / d) n := by
  have posQ : (0 : ℚ) < d := mod_cast pos
  have dist : |(m : ℚ) / d - n| = ((|(m : Int) - n * d| : Int) : ℚ) / d := by
    push_cast
    rw [div_sub' posQ.ne', abs_div, abs_of_pos posQ, mul_comm (d : ℚ)]
  constructor
  · rw [dist, div_le_div_iff₀ posQ two_pos]
    exact_mod_cast (by omega : |(m : Int) - n * d| * 2 ≤ 1 * d)
  · rw [dist, div_eq_div_iff posQ.ne' two_ne_zero]
    intro half
    have half : |(m : Int) - n * d| * 2 = 1 * d := mod_cast half
    exact tie (by omega)

theorem roundShift_roundsToEven (m k : Nat) :
    RoundsToEven (m / (2 ^ k : Nat)) (roundShift m k) := by
  have pos : 0 < 2 ^ k := by positivity
  have parts := Nat.div_add_mod m (2 ^ k)
  have rest_lt := Nat.mod_lt m pos
  simp only [roundShift]
  generalize m / 2 ^ k = quot at *
  generalize m % 2 ^ k = rest at *
  generalize 2 ^ k = d at *
  subst parts
  split
  next up =>
    have dist : |((d * quot + rest : Nat) : Int) - (quot + 1 : Nat) * d| = d - rest := by
      rw [show ((d * quot + rest : Nat) : Int) - (quot + 1 : Nat) * d = rest - d by push_cast; ring,
        abs_of_nonpos (by omega), neg_sub]
    exact roundsToEven_div pos (by omega) (by omega)
  next down =>
    have dist : |((d * quot + rest : Nat) : Int) - quot * d| = rest := by
      rw [show ((d * quot + rest : Nat) : Int) - quot * d = rest by push_cast; ring, Nat.abs_cast]
    exact roundsToEven_div pos (by omega) (by omega)

/-- The significand is `m · 2^e` in units of `2^q`, rounded. -/
theorem roundTo_roundsToEven (m : Nat) (e q : Int) :
    RoundsToEven (m * 2 ^ (e - q)) (roundTo m e q) := by
  rw [roundTo]
  split
  next exact_shift =>
    have shift : (2 : ℚ) ^ (e - q) = (2 ^ (e - q).toNat : Nat) := by
      rw [Nat.cast_pow, ← zpow_natCast, Int.toNat_of_nonneg (by omega)]
      rfl
    rw [shift, ← Nat.cast_mul]
    exact roundsToEven_self _
  next =>
    have shift : (2 : ℚ) ^ (e - q) = ((2 ^ (q - e).toNat : Nat) : ℚ)⁻¹ := by
      rw [Nat.cast_pow, Nat.cast_ofNat, ← zpow_natCast, Int.toNat_of_nonneg (by omega), ← zpow_neg,
        neg_sub]
    rw [shift, ← div_eq_mul_inv]
    exact roundShift_roundsToEven m _

namespace RoundsToEven

variable {t : ℚ} {n : Nat} (h : RoundsToEven t n)
include h

theorem le_of_lt {k : Nat} (lt : t < k) : n ≤ k := by
  obtain ⟨low, -⟩ := abs_le.mp h.near
  have : (n : ℚ) < (k + 1 : Nat) := by push_cast; linarith
  exact Nat.le_of_lt_succ (mod_cast this)

theorem ge_of_ge {k : Nat} (ge : (k : ℚ) ≤ t) : k ≤ n := by
  obtain ⟨-, high⟩ := abs_le.mp h.near
  have : (k : ℚ) < (n + 1 : Nat) := by push_cast; linarith
  exact Nat.le_of_lt_succ (mod_cast this)

/-- An even integer is reached from halfway below it on. -/
theorem lt_iff_of_even {k : Nat} (even : k % 2 = 0) : n < k ↔ t < k - 1 / 2 := by
  obtain ⟨low, high⟩ := abs_le.mp h.near
  constructor
  · intro lt
    by_contra! half
    have below : (n + 1 : Nat) ≤ (k : ℚ) := mod_cast lt
    push_cast at below
    have gap : t - n = 1 / 2 := by linarith
    have odd : (n : ℚ) + 1 = k := by linarith
    have := h.tie (by rw [gap]; norm_num)
    have : n + 1 = k := mod_cast odd
    omega
  · intro half
    have : (n : ℚ) < k := by linarith
    exact_mod_cast this

/-- No integer is nearer to `t` than `n`, and no number below `2^52` where `t` is not below it; where
another of them is as near, `n` is even. -/
theorem nearest {z : ℚ} (grid : (∃ j : Int, z = j) ∨ (|z| < 2 ^ 52 ∧ 2 ^ 52 ≤ t)) :
    |t - n| ≤ |t - z| ∧ (|t - n| = |t - z| → z ≠ n → n % 2 = 0) := by
  have integers (j : Int) : |t - n| ≤ |t - j| ∧ (|t - n| = |t - j| → j ≠ n → n % 2 = 0) := by
    by_cases same : j = n
    · exact ⟨by rw [same]; simp, fun _ other => absurd same other⟩
    · have apart : 1 ≤ |(j : ℚ) - n| := by
        exact_mod_cast Int.one_le_abs (sub_ne_zero.mpr same)
      have triangle : |(j : ℚ) - n| ≤ |t - j| + |t - n| := by
        rw [abs_sub_comm t j]
        exact abs_sub_le _ _ _
      have near := h.near
      exact ⟨by linarith, fun equal _ => h.tie (by linarith)⟩
  obtain ⟨j, rfl⟩ | ⟨small, large⟩ := grid
  · exact ⟨(integers j).1, fun equal other => (integers j).2 equal (mod_cast other)⟩
  · have farther : |t - n| < |t - z| := by
      refine (integers (2 ^ 52)).1.trans_lt ?_
      have := (abs_lt.mp small).2
      push_cast
      rw [abs_of_nonneg (by linarith), abs_of_nonneg (by linarith)]
      linarith
    exact ⟨farther.le, fun equal => absurd equal farther.ne⟩

end RoundsToEven

/-! ## The quantum of a result -/

theorem resultQuantum_ge (m : Nat) (e : Int) : -1074 ≤ resultQuantum m e :=
  le_max_right _ _

/-- In units of the result's quantum a number stays below the 54th bit, and it has 53 bits unless the
quantum is the subnormals'. -/
theorem scaled_range {m : Nat} (hm : m ≠ 0) (e : Int) :
    let q := resultQuantum m e
    (m : ℚ) * 2 ^ (e - q) < 2 ^ 53 ∧ (q = -1074 ∨ (2 : ℚ) ^ 52 ≤ m * 2 ^ (e - q)) := by
  intro q
  have pos : (0 : ℚ) < 2 ^ (e - q) := by positivity
  constructor
  · have high : (m : ℚ) < 2 ^ ((Nat.log2 m : Int) + 1) := mod_cast Nat.lt_log2_self
    calc (m : ℚ) * 2 ^ (e - q) < 2 ^ ((Nat.log2 m : Int) + 1) * 2 ^ (e - q) :=
          mul_lt_mul_of_pos_right high pos
      _ = 2 ^ ((Nat.log2 m : Int) + 1 + (e - q)) := (zpow_add₀ two_ne_zero _ _).symm
      _ ≤ 2 ^ (53 : Int) := zpow_le_zpow_right₀ one_le_two (by simp only [q, resultQuantum]; omega)
      _ = 2 ^ 53 := by norm_num
  · refine or_iff_not_imp_left.mpr fun normal => ?_
    have low : (2 : ℚ) ^ (Nat.log2 m : Int) ≤ m := mod_cast Nat.log2_self_le hm
    calc (2 : ℚ) ^ 52 = 2 ^ ((Nat.log2 m : Int) + (e - q)) := by
          rw [show (Nat.log2 m : Int) + (e - q) = 52 by simp only [q, resultQuantum] at *; omega]
          norm_num
      _ = 2 ^ (Nat.log2 m : Int) * 2 ^ (e - q) := zpow_add₀ two_ne_zero _ _
      _ ≤ m * 2 ^ (e - q) := mul_le_mul_of_nonneg_right low pos.le

theorem scaled_mul_quantum (m : Nat) (e q : Int) :
    (m : ℚ) * 2 ^ (e - q) * 2 ^ q = m * 2 ^ e := by
  rw [mul_assoc, ← zpow_add₀ two_ne_zero, sub_add_cancel]

/-! ## The finite numbers -/

theorem significand_lt (x : F64) : F64.significand x < 2 ^ 53 := by
  have fraction : F64.fracField x < 2 ^ 52 := (x.extractLsb' 0 52).isLt
  rw [F64.significand]
  split <;> omega

theorem quantum_bounds {x : F64} (finite : scaleFinite x = true) :
    -1074 ≤ F64.quantum x ∧ F64.quantum x ≤ 971 := by
  have exponent : F64.expField x < 2 ^ 11 := (x.extractLsb' 52 11).isLt
  have := (scaleFinite_iff x).mp finite
  rw [F64.quantum]
  omega

theorem abs_toRat (x : F64) : |F64.toRat x| = F64.significand x * 2 ^ F64.quantum x := by
  have pos : (0 : ℚ) ≤ F64.significand x * 2 ^ F64.quantum x := by positivity
  rw [F64.toRat, mul_assoc]
  split
  · rw [neg_one_mul, abs_neg, abs_of_nonneg pos]
  · rw [one_mul, abs_of_nonneg pos]

/-- A number is a multiple of the quantum `2^q`, or it lies below the normal numbers of that quantum. -/
theorem toRat_on_grid (x : F64) (q : Int) :
    (∃ j : Int, F64.toRat x = j * 2 ^ q) ∨
      (F64.quantum x < q ∧ |F64.toRat x| < 2 ^ 52 * 2 ^ q) := by
  obtain h | h := le_or_gt q (F64.quantum x)
  · left
    have weight : (2 : ℚ) ^ F64.quantum x = 2 ^ (F64.quantum x - q).toNat * 2 ^ q := by
      rw [← zpow_natCast, Int.toNat_of_nonneg (by omega), ← zpow_add₀ two_ne_zero, sub_add_cancel]
    refine ⟨(if F64.sign x then -1 else 1) * F64.significand x * 2 ^ (F64.quantum x - q).toNat, ?_⟩
    rw [F64.toRat, weight]
    push_cast
    ring
  · right
    refine ⟨h, ?_⟩
    have bits : (F64.significand x : ℚ) < 2 ^ 53 := mod_cast significand_lt x
    calc |F64.toRat x| = F64.significand x * 2 ^ F64.quantum x := abs_toRat x
      _ < 2 ^ 53 * 2 ^ F64.quantum x := mul_lt_mul_of_pos_right bits (by positivity)
      _ ≤ 2 ^ 53 * 2 ^ (q - 1) := by gcongr; exacts [one_le_two, by omega]
      _ = 2 ^ 52 * 2 ^ q := by rw [zpow_sub_one₀ two_ne_zero]; ring

/-! ## Where the result overflows -/

/-- The overflow bound in units of the largest quantum. -/
theorem overflowBound_eq : F64.overflowBound = (2 ^ 53 - 1 / 2) * 2 ^ (971 : Int) := by
  rw [F64.overflowBound, show (971 : Int) = (970 : Nat) + 1 from rfl, zpow_add_one₀ two_ne_zero,
    zpow_natCast]
  generalize (2 : ℚ) ^ 970 = u
  ring

theorem mul_lt_overflowBound {c : ℚ} (h : c < 2 ^ 53 - 1 / 2) :
    c * 2 ^ (971 : Int) < F64.overflowBound := by
  rw [overflowBound_eq]
  exact mul_lt_mul_of_pos_right h (by positivity)

theorem overflowBound_pos : 0 < F64.overflowBound :=
  (zero_mul _).symm.trans_lt (mul_lt_overflowBound (by norm_num))

theorem abs_toRat_lt_overflowBound {x : F64} (finite : scaleFinite x = true) :
    |F64.toRat x| < F64.overflowBound := by
  have bits : (F64.significand x : ℚ) ≤ 2 ^ 53 - 1 := by
    have : (F64.significand x + 1 : Nat) ≤ (2 : ℚ) ^ 53 := mod_cast significand_lt x
    push_cast at this
    linarith
  calc |F64.toRat x| = F64.significand x * 2 ^ F64.quantum x := abs_toRat x
    _ ≤ (2 ^ 53 - 1) * 2 ^ (971 : Int) := by
        gcongr
        exacts [one_le_two, (quantum_bounds finite).2]
    _ < F64.overflowBound := mul_lt_overflowBound (by norm_num)

section
variable {t : ℚ} {n : Nat} {q : Int} (h : RoundsToEven t n) (below : t < 2 ^ 53)
  (normal : q = -1074 ∨ 2 ^ 52 ≤ t)
include h below normal

/-- The packed significand stays below the pattern of the infinity exactly as its number stays below the
overflow bound (R125). -/
theorem packed_lt_infinityBits_iff (range : -1074 ≤ q) :
    (q + 1074).toNat * 2 ^ 52 + n < infinityBits ↔ t * 2 ^ q < F64.overflowBound := by
  have carry : n ≤ 2 ^ 53 := h.le_of_lt (mod_cast below)
  have hidden : q = -1074 ∨ 2 ^ 52 ≤ n := normal.imp_right fun large => h.ge_of_ge (mod_cast large)
  simp only [infinityBits]
  obtain less | rfl | more := lt_trichotomy q 971
  · refine iff_of_true (by omega) ?_
    calc t * 2 ^ q < 2 ^ 53 * 2 ^ q := mul_lt_mul_of_pos_right below (by positivity)
      _ ≤ 2 ^ 53 * 2 ^ ((971 : Int) - 1) := by gcongr; exacts [one_le_two, by omega]
      _ = 2 ^ 52 * 2 ^ (971 : Int) := by rw [zpow_sub_one₀ two_ne_zero]; ring
      _ < F64.overflowBound := mul_lt_overflowBound (by norm_num)
  · rw [overflowBound_eq, mul_lt_mul_iff_left₀ (by positivity)]
    have half := h.lt_iff_of_even (k := 2 ^ 53) (by decide)
    rw [Nat.cast_pow, Nat.cast_ofNat] at half
    rw [← half]
    omega
  · refine iff_of_false (by omega) (not_lt.mpr ?_)
    have large : 2 ^ 52 ≤ t := normal.resolve_left (by omega)
    calc F64.overflowBound = (2 ^ 53 - 1 / 2) * 2 ^ (971 : Int) := overflowBound_eq
      _ ≤ 2 ^ 53 * 2 ^ (971 : Int) := by gcongr; norm_num
      _ = (2 : ℚ) ^ 52 * 2 ^ ((971 : Int) + 1) := by rw [zpow_add_one₀ two_ne_zero]; ring
      _ ≤ t * 2 ^ q := by gcongr; exacts [one_le_two, by omega]

end

end Sys2Proof.Machine

end

section
/-! SUPPORT. The product of step 7 (R125): the rounded pattern is the nearest finite number, and the
infinity from the overflow bound on; its sign, and the products that are exact. -/

namespace Sys2Proof.Machine

/-! ## The rounded pattern -/

theorem roundF64_zero (neg : Bool) (e : Int) : roundF64 neg 0 e = F64.zero neg := rfl

theorem packMagnitude_le (sig : Nat) (q : Int) : packMagnitude sig q ≤ infinityBits :=
  min_le_right _ _

theorem sign_roundF64 (neg : Bool) (m : Nat) (e : Int) : F64.sign (roundF64 neg m e) = neg := by
  by_cases hm : m = 0
  · rw [hm, roundF64_zero]
    cases neg <;> rfl
  · rw [roundF64_eq_signed neg hm]
    exact F64.sign_signed neg ((packMagnitude_le _ _).trans_lt (by decide))

theorem toRat_zero_of_sign (neg : Bool) : F64.toRat (F64.zero neg) = 0 := by
  have sig : F64.significand (F64.zero neg) = 0 := by cases neg <;> decide
  simp [F64.toRat, sig]

/-- The last bit of a pattern is that of its body. -/
theorem lastBit_signed (neg : Bool) {body : Nat} (even : body % 2 = 0) :
    (F64.signed neg body).getLsbD 0 = false := by
  rw [F64.signed, BitVec.getLsbD_ofNat, Nat.testBit_zero]
  cases neg <;> simp <;> omega

/-- The number `± m · 2^e`. -/
def signedRat (neg : Bool) (m : Nat) (e : Int) : ℚ := (if neg then -1 else 1) * (m * 2 ^ e)

theorem abs_signedRat (neg : Bool) (m : Nat) (e : Int) : |signedRat neg m e| = m * 2 ^ e := by
  have pos : (0 : ℚ) ≤ m * 2 ^ e := by positivity
  cases neg <;> simp [signedRat, abs_of_nonneg pos]

theorem toRat_eq_signedRat (x : F64) :
    F64.toRat x = signedRat (F64.sign x) (F64.significand x) (F64.quantum x) := by
  rw [F64.toRat, signedRat, mul_assoc]

theorem signedRat_mul (a b : Bool) (m n : Nat) (e f : Int) :
    signedRat a m e * signedRat b n f = signedRat (a ^^ b) (m * n) (e + f) := by
  simp only [signedRat, zpow_add₀ (two_ne_zero' ℚ)]
  push_cast
  cases a <;> cases b <;> simp <;> ring

/-- No finite number is nearer to `x` than `r`, and where another is as near `r` is even (R125). -/
def IsRounding (x : ℚ) (r : F64) : Prop :=
  scaleFinite r = true ∧ ∀ y : F64, scaleFinite y = true →
    |x - F64.toRat r| ≤ |x - F64.toRat y| ∧
    (|x - F64.toRat r| = |x - F64.toRat y| → F64.toRat y ≠ F64.toRat r → r.getLsbD 0 = false)

/-- A binary64 number is its own rounding. -/
theorem isRounding_of_toRat_eq {x : ℚ} {r : F64} (finite : scaleFinite r = true)
    (value : F64.toRat r = x) : IsRounding x r := by
  refine ⟨finite, fun y _ => ?_⟩
  rw [value, sub_self, abs_zero]
  exact ⟨abs_nonneg _, fun equal other =>
    absurd (sub_eq_zero.mp (abs_eq_zero.mp equal.symm)).symm other⟩

/-- Of the finite numbers none is nearer to `± t · 2^q` than `± n · 2^q`; where another is as near, `n` is
even. -/
theorem RoundsToEven.nearest_number {t : ℚ} {n : Nat} {q : Int} (h : RoundsToEven t n)
    (normal : q = -1074 ∨ 2 ^ 52 ≤ t) (neg : Bool) {y : F64} (finite : scaleFinite y = true) :
    let s : ℚ := if neg then -1 else 1
    |s * (t * 2 ^ q) - s * (n * 2 ^ q)| ≤ |s * (t * 2 ^ q) - F64.toRat y| ∧
      (|s * (t * 2 ^ q) - s * (n * 2 ^ q)| = |s * (t * 2 ^ q) - F64.toRat y| →
        F64.toRat y ≠ s * (n * 2 ^ q) → n % 2 = 0) := by
  intro s
  have unit : s * s = 1 := by cases neg <;> norm_num [s]
  have abs_unit : |s| = 1 := by cases neg <;> norm_num [s]
  have pos : (0 : ℚ) < 2 ^ q := by positivity
  obtain ⟨z, hz⟩ : ∃ z, F64.toRat y = s * (z * 2 ^ q) :=
    ⟨s * F64.toRat y / 2 ^ q, by rw [div_mul_cancel₀ _ pos.ne', ← mul_assoc, unit, one_mul]⟩
  have grid : (∃ j : Int, z = j) ∨ (|z| < 2 ^ 52 ∧ 2 ^ 52 ≤ t) := by
    obtain ⟨j, hj⟩ | ⟨finer, small⟩ := toRat_on_grid y q
    · left
      refine ⟨(if neg then -1 else 1) * j, mul_right_cancel₀ pos.ne' ?_⟩
      calc z * 2 ^ q = s * s * (z * 2 ^ q) := by rw [unit, one_mul]
        _ = s * (j * 2 ^ q) := by rw [mul_assoc, ← hz, hj]
        _ = _ := by push_cast; rw [mul_assoc]
    · right
      have range := (quantum_bounds finite).1
      rw [hz, abs_mul, abs_unit, one_mul, abs_mul, abs_of_pos pos] at small
      exact ⟨lt_of_mul_lt_mul_right small pos.le, normal.resolve_left (by omega)⟩
  have distance (k : ℚ) : |s * (t * 2 ^ q) - s * (k * 2 ^ q)| = |t - k| * 2 ^ q := by
    rw [← mul_sub, ← sub_mul, abs_mul, abs_unit, one_mul, abs_mul, abs_of_pos pos]
  obtain ⟨nearer, tie⟩ := h.nearest grid
  rw [hz, distance, distance]
  refine ⟨mul_le_mul_of_nonneg_right nearer pos.le, fun equal other => tie ?_ ?_⟩
  · exact mul_right_cancel₀ pos.ne' equal
  · rintro rfl
    exact other rfl

/-- The rounded number, ties to even (R125, G2). -/
theorem roundF64_isRounding (neg : Bool) (m : Nat) (e : Int)
    (bound : |signedRat neg m e| < F64.overflowBound) :
    IsRounding (signedRat neg m e) (roundF64 neg m e) := by
  by_cases hm : m = 0
  · subst hm
    rw [roundF64_zero]
    refine isRounding_of_toRat_eq (by cases neg <;> decide) ?_
    simp [toRat_zero_of_sign, signedRat]
  obtain ⟨below, normal⟩ := scaled_range hm e
  have range := resultQuantum_ge m e
  have rounded := roundTo_roundsToEven m e (resultQuantum m e)
  rw [abs_signedRat, ← scaled_mul_quantum m e (resultQuantum m e)] at bound
  rw [roundF64_eq_signed neg hm, signedRat, ← scaled_mul_quantum m e (resultQuantum m e)]
  generalize (m : ℚ) * 2 ^ (e - resultQuantum m e) = t at *
  generalize roundTo m e (resultQuantum m e) = n at *
  generalize resultQuantum m e = q at *
  have packed := (packed_lt_infinityBits_iff rounded below normal range).mpr bound
  have value := toRat_signed_packMagnitude packed neg range
    (normal.symm.imp_left fun large => rounded.ge_of_ge (mod_cast large))
    (rounded.le_of_lt (mod_cast below))
  refine ⟨scaleFinite_signed_packMagnitude packed neg, fun y finite => ?_⟩
  rw [value]
  obtain ⟨nearer, tie⟩ := rounded.nearest_number normal neg finite
  refine ⟨nearer, fun equal other => lastBit_signed neg ?_⟩
  have even := tie equal other
  rw [packMagnitude_of_lt packed]
  omega

theorem roundF64_of_overflow (neg : Bool) {m : Nat} {e : Int}
    (bound : F64.overflowBound ≤ |signedRat neg m e|) : roundF64 neg m e = F64.infinity neg := by
  rw [abs_signedRat] at bound
  have hm : m ≠ 0 := by
    rintro rfl
    simp only [Nat.cast_zero, zero_mul] at bound
    exact absurd overflowBound_pos (not_lt.mpr bound)
  obtain ⟨below, normal⟩ := scaled_range hm e
  have rounded := roundTo_roundsToEven m e (resultQuantum m e)
  have packed := packed_lt_infinityBits_iff rounded below normal (resultQuantum_ge m e)
  rw [scaled_mul_quantum] at packed
  have full := not_lt.mp (packed.not.mpr (not_lt.mpr bound))
  rw [roundF64_eq_signed neg hm, packMagnitude, min_eq_right full]
  rfl

/-! ## The product of step 7 -/

theorem f64OfInt_exact {v : Int} (bound : |v| ≤ 2 ^ 53) :
    scaleFinite (f64OfInt v) = true ∧ F64.toRat (f64OfInt v) = v :=
  integersConvertExactly v bound

theorem one_eq_f64OfInt : F64.one = f64OfInt 1 := by decide

theorem sign_f64OfInt (v : Int) : F64.sign (f64OfInt v) = decide (v < 0) :=
  sign_roundF64 _ _ _

theorem fmul_of_finite {a b : F64} (ha : scaleFinite a = true) (hb : scaleFinite b = true) :
    fmul a b = roundF64 (F64.sign a ^^ F64.sign b) (F64.significand a * F64.significand b)
      (F64.quantum a + F64.quantum b) := by
  simp [fmul, ha, hb]

theorem toRat_mul_toRat (a b : F64) : F64.toRat a * F64.toRat b =
    signedRat (F64.sign a ^^ F64.sign b) (F64.significand a * F64.significand b)
      (F64.quantum a + F64.quantum b) := by
  rw [toRat_eq_signedRat, toRat_eq_signedRat, signedRat_mul]

section
variable {v : Int} {isf : F64} (bound : |v| ≤ 2 ^ 53) (finite : scaleFinite isf = true)
include bound finite

theorem sign_stepValue : F64.sign (stepValue v isf) = (decide (v < 0) ^^ F64.sign isf) := by
  rw [stepValue, fmul_of_finite (f64OfInt_exact bound).1 finite, sign_roundF64, sign_f64OfInt]

theorem stepValue_isRounding (less : |(v : ℚ) * F64.toRat isf| < F64.overflowBound) :
    IsRounding (v * F64.toRat isf) (stepValue v isf) := by
  obtain ⟨finite_v, value⟩ := f64OfInt_exact bound
  rw [← value, toRat_mul_toRat] at less ⊢
  rw [stepValue, fmul_of_finite finite_v finite]
  exact roundF64_isRounding _ _ _ less

theorem stepValue_of_overflow (beyond : F64.overflowBound ≤ |(v : ℚ) * F64.toRat isf|) :
    stepValue v isf = F64.infinity (decide (v < 0) ^^ F64.sign isf) := by
  obtain ⟨finite_v, value⟩ := f64OfInt_exact bound
  rw [← value, toRat_mul_toRat] at beyond
  rw [stepValue, fmul_of_finite finite_v finite, roundF64_of_overflow _ beyond, sign_f64OfInt]

/-- A product that is a binary64 number is not rounded (R137). -/
theorem stepValue_exact {y : F64} (finite_y : scaleFinite y = true)
    (product : F64.toRat y = v * F64.toRat isf) :
    F64.toRat (stepValue v isf) = v * F64.toRat isf := by
  have less := product ▸ abs_toRat_lt_overflowBound finite_y
  have nearest := ((stepValue_isRounding bound finite less).2 y finite_y).1
  rw [product, sub_self, abs_zero] at nearest
  exact (sub_eq_zero.mp (abs_nonpos_iff.mp nearest)).symm

end

/-! ## Signs of the product -/

/-- The integer 0 gives the zero of the scale's sign (R125). -/
theorem stepValue_zero {isf : F64} (finite : scaleFinite isf = true) :
    stepValue 0 isf = F64.zero (F64.sign isf) := by
  have sign : F64.sign (f64OfInt 0) = false := by decide
  have significand : F64.significand (f64OfInt 0) = 0 := by decide
  rw [stepValue, fmul_of_finite (by decide) finite, sign, significand, Nat.zero_mul, roundF64_zero,
    Bool.false_xor]

theorem sign_of_toRat_pos {x : F64} (pos : 0 < F64.toRat x) : F64.sign x = false := by
  by_contra sign
  have magnitude : (0 : ℚ) ≤ F64.significand x * 2 ^ F64.quantum x := by positivity
  rw [toRat_eq_signedRat, eq_true_of_ne_false sign, signedRat, if_pos rfl] at pos
  linarith

/-- The least subnormal of a sign. -/
theorem toRat_least_subnormal (neg : Bool) :
    F64.toRat (F64.signed neg (packMagnitude 1 (-1074))) =
      (if neg then -1 else 1) * 2 ^ (-1074 : Int) := by
  rw [toRat_signed_packMagnitude (by decide) neg le_rfl (.inr rfl) (by decide), Nat.cast_one, one_mul]

/-- A multiple of the least quantum does not round to 0: the least subnormal of its sign is nearer. -/
theorem IsRounding.toRat_ne_zero {k : Int} {r : F64} (hk : k ≠ 0)
    (h : IsRounding (k * 2 ^ (-1074 : Int)) r) : F64.toRat r ≠ 0 := by
  intro vanished
  have pos : (0 : ℚ) < 2 ^ (-1074 : Int) := by positivity
  have finite := scaleFinite_signed_packMagnitude (sig := 1) (q := -1074) (by decide) (decide (k < 0))
  have nearer := (h.2 _ finite).1
  rw [vanished, sub_zero, toRat_least_subnormal, ← sub_mul, abs_mul, abs_mul,
    mul_le_mul_iff_left₀ (abs_pos.mpr pos.ne')] at nearer
  have nearer : |k| ≤ |k - if k < 0 then -1 else 1| := by
    rw [← Int.cast_le (R := ℚ)]
    simpa using nearer
  split at nearer
  next negative => rw [abs_of_neg negative, abs_of_nonpos (by omega)] at nearer; omega
  next => rw [abs_of_nonneg (by omega), abs_of_nonneg (by omega)] at nearer; omega

/-- The product of an integer and a scale, neither of them 0, is no zero. -/
theorem stepValue_ne_zero {v : Int} {isf : F64} (bound : |v| ≤ 2 ^ 53) (hv : v ≠ 0)
    (finite : scaleFinite isf = true) (hisf : F64.toRat isf ≠ 0) (neg : Bool) :
    stepValue v isf ≠ F64.zero neg := by
  intro vanished
  obtain less | beyond := lt_or_ge |(v : ℚ) * F64.toRat isf| F64.overflowBound
  · obtain ⟨j, multiple⟩ := (toRat_on_grid isf (-1074)).resolve_right fun finer =>
      absurd finer.1 (not_lt.mpr (quantum_bounds finite).1)
    have hj : j ≠ 0 := by
      rintro rfl
      simp [multiple] at hisf
    have rounding := stepValue_isRounding bound finite less
    rw [multiple, ← mul_assoc, ← Int.cast_mul, vanished] at rounding
    exact rounding.toRat_ne_zero (mul_ne_zero hv hj) (toRat_zero_of_sign neg)
  · rw [stepValue_of_overflow bound finite beyond] at vanished
    have apart : ∀ a b, F64.infinity a ≠ F64.zero b := by decide
    exact apart _ _ vanished

/-- Under a positive scale the product has the sign of an integer other than 0, and is no zero. -/
theorem stepValue_of_scale_pos {v : Int} {isf : F64} (bound : |v| ≤ 2 ^ 53) (hv : v ≠ 0)
    (finite : scaleFinite isf = true) (positive : 0 < F64.toRat isf) :
    F64.sign (stepValue v isf) = decide (v < 0) ∧
      stepValue v isf ≠ F64.zero (decide (v < 0)) := by
  refine ⟨?_, stepValue_ne_zero bound hv finite positive.ne' _⟩
  rw [sign_stepValue bound finite, sign_of_toRat_pos positive, Bool.xor_false]

end Sys2Proof.Machine

open Sys2Proof Sys2Proof.Machine

/-- Settles O41: the significand of the product is rounded to the nearest integer of the result's quantum,
which is nearest among all finite numbers. -/
theorem productIsCorrectlyRounded : Obligations.ProductIsCorrectlyRounded :=
  fun _ _ bound finite => ⟨(f64OfInt_exact bound).2, sign_stepValue bound finite,
    stepValue_isRounding bound finite, stepValue_of_overflow bound finite⟩

/-- Settles O42: a product with 1.0 is the integer itself, and `2^32` times `2^991` is below the bound. -/
theorem resultRange : Obligations.ResultRange := by
  intro w ty sf V4
  have small : |V4| < 2 ^ 32 := abs_stepV4_lt w ty sf
  have bound : |V4| ≤ 2 ^ 53 := by omega
  refine ⟨?_, fun isf finite => ⟨fun scale => ?_, fun y => stepValue_exact bound finite⟩⟩
  · obtain ⟨finite, value⟩ := f64OfInt_exact bound
    have product : F64.toRat (f64OfInt V4) = V4 * F64.toRat F64.one := by
      rw [value, one_eq_f64OfInt, (f64OfInt_exact (v := 1) (by decide)).2, Int.cast_one, mul_one]
    exact (stepValue_exact bound (by decide) finite product).trans (product.symm.trans value)
  · refine (stepValue_isRounding bound finite ?_).1
    have small : |(V4 : ℚ)| < 2 ^ 32 := mod_cast small
    calc |(V4 : ℚ) * F64.toRat isf| = |(V4 : ℚ)| * |F64.toRat isf| := abs_mul _ _
      _ ≤ 2 ^ 32 * 2 ^ 991 := by gcongr
      _ = 2 ^ 52 * 2 ^ (971 : Int) := by
        rw [show (971 : Int) = (971 : Nat) from rfl, zpow_natCast, ← pow_add, ← pow_add]
      _ < F64.overflowBound := mul_lt_overflowBound (by norm_num)

end

section
/-! SUPPORT. The five decode operations (R131 to R135): what each does where its TYPE selects it and
elsewhere, and the corner cases of its integer codes. -/

namespace Sys2Proof.Machine

/-! ## What a decode operation does -/

theorem decodeTyped_codeOfType (ty : TypeDescriptor) (n : Channel) (w : Word) :
    decodeTyped (codeOfType ty) n w = .ok (decodeOperation ty n w) := by
  simp [decodeTyped]

/-- In a run, on a channel of its TYPE, an operation decodes its Word to the integer code of Table F2. -/
theorem exec_decodeOperation_selected {s : State} {n : Channel} {ty : TypeDescriptor} {w : Word}
    {v3 : Int} (run : s.RUN = true) (selected : (s.CFG.get n).ty = ty)
    (code : codeV3 (stepV w) ty = v3) :
    exec (decodeOperation ty n w) s =
      .next (afterDecode s n w (v3 / 2 ^ (s.CFG.get n).sf.toNat)) := by
  rw [exec_decodeOperation, decodeAs, State.selects, run, decide_eq_true selected, ← code]
  rfl

/-- Otherwise it does not take place (log 9). -/
theorem exec_decodeOperation_unselected {s : State} {n : Channel} {ty : TypeDescriptor}
    (unselected : s.RUN = false ∨ (s.CFG.get n).ty ≠ ty) (w : Word) :
    exec (decodeOperation ty n w) s = .next s.noBeat := by
  have idle : s.selects n ty = false := by
    obtain idle | other := unselected
    · simp [State.selects, idle]
    · simp [State.selects, other]
  rw [exec_decodeOperation, decodeAs, idle]
  rfl

end Sys2Proof.Machine

open Sys2Proof Sys2Proof.Machine

/-- Settles O33: an operation that is not selected presents no beat. -/
theorem decodeNeedsItsType : Obligations.DecodeNeedsItsType :=
  fun _ _ _ w unselected => exec_decodeOperation_unselected unselected w

/-- Settles O28: V3 is `2^4 · V`, of 16 bits. -/
theorem decodeUnsigned16 : Obligations.DecodeUnsigned16 := by
  refine ⟨decodeTyped_codeOfType .unsigned16, fun s n w run selected => ?_⟩
  intro V SF V4
  have executed := exec_decodeOperation_selected run selected (codeV3_unsigned16 (stepV w))
  obtain ⟨low, high⟩ : 0 ≤ V ∧ V ≤ 4095 := magnitude_range w
  refine ⟨executed, shr_nonneg (by omega) SF, fun count => ?_, fun count => ?_, fun count => ?_,
    fun zero finite => ?_⟩
  · rw [show V4 = 2 ^ (4 - SF) * V from shr_two_pow_mul count.le V, count]
    exact one_mul V
  · have high16 : 16 * V < 2 ^ 16 := by omega
    exact (shr_of_width_le (by omega) high16 count).trans (if_pos (by omega))
  · exact ⟨V, shr_two_pow_mul count.le V⟩
  · have zero_code : V4 = 0 := by simp [V4, zero]
    exact zero_code ▸ stepValue_zero finite

/-- Settles O29: V3 is `2^4 · (V − 0x800)`, of 16 bits with its sign. -/
theorem decodeSigned16 : Obligations.DecodeSigned16 := by
  refine ⟨decodeTyped_codeOfType .signed16, fun s n w run selected => ?_⟩
  intro V SF V3 V4 value
  have executed := exec_decodeOperation_selected run selected (codeV3_signed16 (stepV w))
  obtain ⟨low, high⟩ : 0 ≤ V ∧ V ≤ 4095 := magnitude_range w
  have multiple : V3 = 2 ^ 4 * (V - 0x800) := by omega
  have unshifted (count : SF = 0) : V4 = V3 := by simp [V4, count]
  refine ⟨executed, by omega, by omega, fun count finite positive => ?_, fun count => ?_,
    fun count => ?_, fun count => ?_⟩
  · have code := unshifted count
    have product : value = stepValue V4 (s.CFG.get n).isf := rfl
    refine ⟨fun magnitude => ?_, fun magnitude => ?_, fun magnitude => ?_⟩
    · rw [product, show V4 = -16 by omega]
      exact stepValue_of_scale_pos (by decide) (by decide) finite positive
    · rw [product, show V4 = 0 by omega, stepValue_zero finite, sign_of_toRat_pos positive]
    · rw [product, show V4 = 16 by omega]
      exact stepValue_of_scale_pos (by decide) (by decide) finite positive
  · have code := unshifted count
    omega
  · have code : V4 = V - 0x800 := by simp [V4, multiple, count]
    omega
  · exact shr_of_width_le_ite (by omega) (by omega : V3 < 2 ^ 16) count (by omega)

/-- Settles O30: V3 is `2^20 · V`, of 32 bits. -/
theorem decodeUnsigned32 : Obligations.DecodeUnsigned32 := by
  refine ⟨decodeTyped_codeOfType .unsigned32, fun s n w run selected => ?_⟩
  intro V SF V4
  have executed := exec_decodeOperation_selected run selected (codeV3_unsigned32 (stepV w))
  obtain ⟨low, high⟩ : 0 ≤ V ∧ V ≤ 4095 := magnitude_range w
  refine ⟨executed, shr_nonneg (by omega) SF, by omega, fun count => ?_, fun count => ?_⟩
  · rw [show V4 = 2 ^ (20 - SF) * V from shr_two_pow_mul count.le V, count]
    exact one_mul V
  · have high32 : 1048576 * V < 2 ^ 32 := by omega
    exact (shr_of_width_le (by omega) high32 count).trans (if_pos (by omega))

/-- Settles O31: V3 is `2^20 · (V − 0x800)`, of 32 bits with its sign. -/
theorem decodeSigned32 : Obligations.DecodeSigned32 := by
  refine ⟨decodeTyped_codeOfType .signed32, fun s n w run selected => ?_⟩
  intro V SF V3 V4
  have executed := exec_decodeOperation_selected run selected (codeV3_signed32 (stepV w))
  obtain ⟨low, high⟩ : 0 ≤ V ∧ V ≤ 4095 := magnitude_range w
  have multiple : (2 : Int) ^ 20 ∣ V3 := ⟨V - 0x800, by omega⟩
  refine ⟨executed, by omega, by omega, by omega, multiple, fun count => ?_, fun count => ?_⟩
  · exact Int.ediv_mul_cancel ((pow_dvd_pow 2 count).trans multiple)
  · exact shr_of_width_le_ite (by omega) (by omega : V3 < 2 ^ 32) count (by omega)

/-- Settles O32: V3 is `16 · V − 6554`, whose sign changes between 0x199 and 0x19A. -/
theorem decodeUnsigned16Offset : Obligations.DecodeUnsigned16Offset := by
  refine ⟨decodeTyped_codeOfType .unsigned16Offset, fun s n w run selected => ?_⟩
  intro V SF V3 V4
  have executed := exec_decodeOperation_selected run selected (codeV3_unsigned16Offset (stepV w))
  obtain ⟨low, high⟩ : 0 ≤ V ∧ V ≤ 4095 := magnitude_range w
  refine ⟨executed, by omega, by omega, by omega, by omega, fun zero count => ?_, fun count => ?_⟩
  · simp only [V4, V3, zero, count]
    decide
  · exact shr_of_width_le_ite (by omega) (by omega : V3 < 2 ^ 16) count (by omega)

end

section
/-! SUPPORT. Run control (43_run_control.md): the reset input, NOP, CFG, START and END in their cases, and
the pipeline law of a whole run. -/

namespace Sys2Proof.Machine

/-! ## What the commands decode to -/

theorem decodeCommand_of_nop (p : Input) (cmd : p.cmd = 0#3) : decodeCommand p = .ok .nop := by
  simp [decodeCommand, cmd]

theorem decodeCommand_of_start (p : Input) (cmd : p.cmd = 2#3) : decodeCommand p = .ok .start := by
  simp [decodeCommand, cmd]

theorem decodeCommand_of_end (p : Input) (cmd : p.cmd = 4#3) : decodeCommand p = .ok .endRun := by
  simp [decodeCommand, cmd]

/-- The codes 5, 6 and 7 are none of the five commands (R151). -/
theorem decodeCommand_of_reserved {p : Input} (reserved : 5 ≤ p.cmd.toNat) :
    decodeCommand p = .error (.reservedCommand p.cmd) := by
  have other (c : BitVec 3) (command : c.toNat < 5) : p.cmd ≠ c := by
    rintro rfl
    omega
  simp [decodeCommand, other 0#3, other 1#3, other 2#3, other 3#3, other 4#3]

/-- The operand of CFG is rejected in two ways (R147). -/
theorem decodeCfg_of_illegal {op : BitVec 75}
    (illegal : typeLegal (cfgType op) = false ∨ scaleFinite (cfgIsf op) = false) :
    ∃ e, decodeCfg op = .error e := by
  cases legal : typeLegal (cfgType op)
  · exact ⟨.reservedType (cfgType op), by simp [decodeCfg, legal]⟩
  · have nonFinite := illegal.resolve_left (by simp [legal])
    exact ⟨.nonFiniteScale (cfgIsf op), by simp [decodeCfg, legal, nonFinite]⟩

/-! ## The step on the sample at the head of the list -/

section
variable {s : State} {p : Input} {rest : List Input} (input : s.input = p :: rest)
include input

theorem step_of_rst (rst : p.rst = true) :
    step s = .next (applyReset { s with input := rest }) := by
  simp [step, fetch_of_cons input, rst]

theorem step_of_head_decoded {i : Instr} (rst : p.rst = false) (decoded : decodeCommand p = .ok i) :
    step s = exec i { s with input := rest } :=
  stepRunsDecodedCommand.1 s p rest i input rst decoded

theorem step_of_head_rejected {e : Reject} (rst : p.rst = false)
    (rejected : decodeCommand p = .error e) : step s = .refused (refusalOf e) := by
  have fetched := fetch_of_cons input
  exact step_of_rejected (by rwa [fetched]) (by rwa [fetched])

end

/-! ## The commands -/

/-- A legal operand is written whole while idle, and ignored in a run (R147). -/
theorem execCfg_of_legal {ty : BitVec 3} {d : TypeDescriptor} {isf : F64}
    (named : typeOfCode ty = some d) (finite : scaleFinite isf = true) (ch : BitVec 2)
    (sf : BitVec 6) (s : State) :
    execCfg ch ty sf isf s =
      if s.RUN then .next s.noBeat
      else .next (s.setCfg (channelOfNumber ch) { ty := d, sf := sf, isf := isf }).noBeat := by
  simp [execCfg, named, finite]

theorem exec_start_idle {s : State} (idle : s.RUN = false) :
    exec .start s = .next s.clearHistories.openRun.noBeat := by
  simp [exec, execStart, idle]

theorem exec_start_run {s : State} (run : s.RUN = true) : exec .start s = .next s.noBeat := by
  simp [exec, execStart, run]

theorem exec_end_run {s : State} (run : s.RUN = true) :
    exec .endRun s = .next s.closeRun.noBeat := by
  simp [exec, execEndRun, run]

theorem exec_end_idle {s : State} (idle : s.RUN = false) : exec .endRun s = .next s.noBeat := by
  simp [exec, execEndRun, idle]

/-! ## The batch functions on the first of the bytes -/

theorem assemble_prefix_append (bs cs : List Byte) : assemble bs <+: assemble (bs ++ cs) := by
  match bs with
  | [] | [_] => exact List.nil_prefix
  | hi :: lo :: rest =>
    exact List.cons_prefix_cons.mpr ⟨rfl, assemble_prefix_append rest cs⟩

/-- The records of a channel for some of a run's commands begin those for all of them (R160). -/
theorem recordSeq_prefix_of_take (cmds : List Input) (j : Nat) (n : Channel) (c : ChannelConfig) :
    recordSeq (channelWords n (assemble (offeredBytes (cmds.take j)))) c <+:
      recordSeq (channelWords n (assemble (offeredBytes cmds))) c := by
  have bytes : offeredBytes cmds = offeredBytes (cmds.take j) ++ offeredBytes (cmds.drop j) := by
    rw [← offeredBytes_append, List.take_append_drop]
  rw [bytes]
  exact ((assemble_prefix_append _ _).filter _).map _

@[simp] theorem map_word_recordSeq (ws : List Word) (c : ChannelConfig) :
    (recordSeq ws c).map Record.word = ws := by
  simp [recordSeq, Function.comp_def, Record.word]

@[simp] theorem map_value?_recordSeq (ws : List Word) (c : ChannelConfig) :
    (recordSeq ws c).map Record.value? = (decodeSeq ws c).map some := by
  simp [recordSeq, decodeSeq, Function.comp_def, Record.value?]

/-! ## A run between START and END -/

/-- A state inside a run under the configuration `cfg` that has accepted the bytes `bs`. Of the data
model (`State.Inv`) it keeps what holds after START from every idle state, whatever its scales. -/
structure State.Streaming (s : State) (cfg : PerChannel ChannelConfig) (bs : List Byte) : Prop where
  run : s.RUN = true
  config : s.CFG = cfg
  phase : s.HAVE = decide (bs.length % 2 = 1)
  held : s.HAVE = true → bs.getLast? = some s.HOLD
  records : ∀ n, s.OUT.get n = recordSeq (channelWords n (assemble bs)) (cfg.get n)

theorem clearHistories_openRun_streaming (s : State) :
    s.clearHistories.openRun.noBeat.Streaming s.CFG [] where
  run := rfl
  config := rfl
  phase := rfl
  held := nofun
  records n := by simp [assemble, channelWords, recordSeq]

theorem offeredBytes_of_push {p : Input} (cmd : p.cmd = 3#3) : offeredBytes [p] = [p.inData] := by
  simp [offeredBytes, offeredByte, cmd]

theorem offeredBytes_of_not_push {p : Input} (cmd : p.cmd ≠ 3#3) : offeredBytes [p] = [] := by
  simp [offeredBytes, offeredByte, cmd]

theorem withinRun_iff (p : Input) :
    withinRun p = true ↔ p.rst = false ∧ p.cmd ≠ 4#3 ∧ legalInput p = true := by
  simp [withinRun, and_assoc]

/-- No command touches the list of the samples to come. -/
theorem Effect.input {p : Input} {s t : State} (e : Effect p s t) : t.input = s.input := by
  cases e <;> rfl

namespace State.Streaming

variable {s : State} {cfg : PerChannel ChannelConfig} {bs : List Byte} (h : s.Streaming cfg bs)
include h

theorem noBeat : s.noBeat.Streaming cfg bs := { h with }

theorem with_input (rest : List Input) : ({ s with input := rest } : State).Streaming cfg bs :=
  { h with }

theorem latch (phase : s.HAVE = false) (b : Byte) : (s.latch b).Streaming cfg (bs ++ [b]) := by
  have even : bs.length % 2 = 0 := by simpa [phase] using h.phase
  have odd : (bs.length + 1) % 2 = 1 := by omega
  exact
    { h with
      phase := by simp [odd]
      held := fun _ => by simp
      records := by simpa [assemble_snoc_even bs b even] using h.records }

/-- The byte that completes a pair: no byte is held, and the batch assembler has one Word more (R93). -/
theorem pair_completed (phase : s.HAVE = true) (b : Byte) :
    (bs.length + 1) % 2 = 0 ∧ assemble (bs ++ [b]) = assemble bs ++ [pairWord s.HOLD b] := by
  have odd : bs.length % 2 = 1 := by simpa [phase] using h.phase
  exact ⟨by omega, assemble_snoc_odd bs s.HOLD b odd (h.held phase)⟩

theorem formWord_routed (phase : s.HAVE = true) (b : Byte) {n : Channel}
    (tag : tagOf (pairWord s.HOLD b) = channelTag n) :
    (emit n (.val (pairWord s.HOLD b) (valueUnder (s.CFG.get n) (pairWord s.HOLD b)))
      ((s.formWord b (pairWord s.HOLD b)).routed n (pairWord s.HOLD b))).Streaming
        cfg (bs ++ [b]) := by
  obtain ⟨even, assembled⟩ := h.pair_completed phase b
  exact
    { run := h.run
      config := h.config
      phase := by simp [even]
      held := nofun
      records := fun k => by
        simp only [emit_OUT, routed_OUT, formWord_OUT, get_push, assembled,
          channelWords_snoc_routed tag]
        split
        next same => rw [recordSeq_snoc, h.records, h.config, same]
        next => exact h.records k }

theorem formWord_dropped (phase : s.HAVE = true) (b : Byte)
    (dropped : isDropped (pairWord s.HOLD b) = true) :
    ((s.formWord b (pairWord s.HOLD b)).dropped (pairWord s.HOLD b)).Streaming cfg (bs ++ [b]) := by
  obtain ⟨even, assembled⟩ := h.pair_completed phase b
  exact
    { run := h.run
      config := h.config
      phase := by simp [even]
      held := nofun
      records := by simpa [assembled, channelWords_snoc_dropped dropped] using h.records }

/-- A command of the run adds the byte it offers, if it offers one. -/
theorem of_effect {p : Input} {t : State} (within : withinRun p = true) (e : Effect p s t) :
    t.Streaming cfg (bs ++ offeredBytes [p]) := by
  obtain ⟨noReset, noEnd, -⟩ := (withinRun_iff p).mp within
  have run := h.run
  cases e with
  | nop _ cmd | configIgnored _ cmd | startIgnored _ cmd =>
    rw [offeredBytes_of_not_push (by simp [cmd]), List.append_nil]
    exact h.noBeat
  | held _ cmd _ phase =>
    rw [offeredBytes_of_push cmd]
    exact (h.latch phase _).noBeat
  | routed _ cmd _ phase n tag =>
    rw [offeredBytes_of_push cmd]
    exact h.formWord_routed phase _ tag
  | dropped _ cmd _ phase tag =>
    rw [offeredBytes_of_push cmd]
    exact (h.formWord_dropped phase _ tag).noBeat
  | reset rst => simp [rst] at noReset
  | closed _ cmd | endIgnored _ cmd => exact absurd cmd noEnd
  | configured _ _ _ _ _ idle | opened _ _ idle | pushIgnored _ _ idle => simp [idle] at run

theorem step_within {p : Input} {rest : List Input} (input : s.input = p :: rest)
    (within : withinRun p = true) :
    ∃ t, step s = .next t ∧ t.input = rest ∧ t.Streaming cfg (bs ++ offeredBytes [p]) := by
  have fetched := fetch_of_cons input
  obtain ⟨-, -, legal⟩ := (withinRun_iff p).mp within
  obtain ⟨t, next⟩ := step_of_legal (s := s) (by rwa [fetched])
  have effect := step_effect next
  rw [fetched] at effect
  exact ⟨t, next, effect.input, (h.with_input rest).of_effect within effect⟩

/-- The commands of the run, taken one by one, and any number of steps after them. -/
theorem run_within {cmds tail : List Input} (input : s.input = cmds ++ tail)
    (within : ∀ p ∈ cmds, withinRun p = true) :
    ∃ t, t.input = tail ∧ t.Streaming cfg (bs ++ offeredBytes cmds) ∧
      ∀ k, core.run (cmds.length + k) s = core.run k t := by
  induction cmds generalizing s bs with
  | nil => exact ⟨s, input, by simpa [offeredBytes] using h, fun k => by simp⟩
  | cons p ps ih =>
    obtain ⟨withinHead, withinTail⟩ := List.forall_mem_cons.mp within
    obtain ⟨u, next, uInput, streamed⟩ := h.step_within input withinHead
    obtain ⟨t, tInput, done, runs⟩ := ih streamed uInput withinTail
    have bytes : bs ++ offeredBytes (p :: ps) = bs ++ offeredBytes [p] ++ offeredBytes ps := by
      rw [List.append_assoc, ← offeredBytes_append, List.singleton_append]
    refine ⟨t, tInput, bytes ▸ done, fun k => ?_⟩
    rw [List.length_cons, Nat.add_right_comm, run_succ_of_next next, runs]

end State.Streaming

/-- START, and `cmds` of the commands of the run: the records are the batch decode of their bytes. -/
theorem run_from_start {s : State} {first : Input} {cmds tail : List Input} (idle : s.RUN = false)
    (input : s.input = first :: (cmds ++ tail)) (rst : first.rst = false) (cmd : first.cmd = 2#3)
    (within : ∀ p ∈ cmds, withinRun p = true) :
    ∃ t, t.input = tail ∧ t.Streaming s.CFG (offeredBytes cmds) ∧
      ∀ k, core.run (cmds.length + k + 1) s = core.run k t := by
  have opened := clearHistories_openRun_streaming ({ s with input := cmds ++ tail } : State)
  obtain ⟨t, tInput, streamed, runs⟩ := opened.run_within rfl within
  refine ⟨t, tInput, streamed, fun k => ?_⟩
  rw [run_succ_of_next (step_of_start idle input rst cmd), runs]

end Sys2Proof.Machine

open Sys2Proof Sys2Proof.Machine

/-- Settles O51: after START the core streams, each command of the run adding its byte, and END keeps
the records. -/
theorem pipelineLaw : Obligations.PipelineLaw := by
  intro s first last cmds rest idle input firstRst firstCmd lastRst lastCmd within words
  refine ⟨?_, fun j bound => ?_⟩
  · obtain ⟨u, uInput, streamed, runs⟩ := run_from_start idle input firstRst firstCmd within
    have ended := (step_of_head_decoded uInput lastRst (decodeCommand_of_end last lastCmd)).trans
      (exec_end_run streamed.run)
    have records (n : Channel) : u.OUT.get n = recordSeq (words n cmds.length) (s.CFG.get n) := by
      simpa [words] using streamed.records n
    refine ⟨_, (runs 1).trans (run_succ_of_next ended 0), rfl, rfl, streamed.config, rfl,
      fun n => ?_⟩
    simp [records]
  · have taken : s.input = first :: (cmds.take j ++ (cmds.drop j ++ last :: rest)) := by
      rw [input, ← List.append_assoc, List.take_append_drop]
    obtain ⟨t, -, streamed, runs⟩ := run_from_start idle taken firstRst firstCmd
      fun p early => within p (List.mem_of_mem_take early)
    rw [List.length_take_of_le bound] at runs
    refine ⟨t, runs 0, streamed.run, fun n => ⟨streamed.records n, ?_⟩⟩
    rw [streamed.records]
    simpa [words] using recordSeq_prefix_of_take cmds j n (s.CFG.get n)

/-- Settles O8: with rst high the command of the sample is not looked at. -/
theorem resetInputIdlesTheCore : Obligations.ResetInputIdlesTheCore :=
  fun _ _ _ input rst => step_of_rst input rst

/-- Settles O11: the decoder rejects the code by name, whatever the state. -/
theorem reservedCommandRefused : Obligations.ReservedCommandRefused :=
  fun _ _ _ input rst reserved =>
    step_of_head_rejected input rst (decodeCommand_of_reserved reserved)

/-- Settles O13: NOP writes no field but the beat. -/
theorem nopChangesNothing : Obligations.NopChangesNothing :=
  ⟨decodeCommand_of_nop, fun _ => rfl⟩

/-- Settles O14: the operand is judged by the decoder, before the mode is looked at. -/
theorem cfgCommandOnThePorts : Obligations.CfgCommandOnThePorts := by
  intro s p rest input rst cmd ch ty sf isf
  split
  next illegal =>
    have rejected : typeLegal ty = false ∨ scaleFinite isf = false :=
      illegal.imp (fun reserved => by simp [typeLegal, reserved]) scaleFinite_eq_false_iff.mpr
    obtain ⟨e, error⟩ := decodeCfg_of_illegal (op := p.cfgOp) rejected
    exact ⟨_, step_of_head_rejected input rst ((decodeCommand_of_cfg cmd).trans error)⟩
  next legal =>
    obtain ⟨typed, finite⟩ := not_or.mp legal
    have typeIsLegal : typeLegal ty = true := decide_eq_true (not_le.mp typed)
    have scaleIsFinite : scaleFinite isf = true := bne_iff_ne.mpr finite
    obtain ⟨d, named, code⟩ := typeOfCode_of_legal ty typeIsLegal
    have stepped := (step_of_head_decoded input rst
      ((decodeCommand_of_cfg cmd).trans (decodeCfg_of_legal typeIsLegal scaleIsFinite))).trans
      (execCfg_of_legal named scaleIsFinite ch sf _)
    split
    next idle => exact ⟨d, code, stepped.trans (if_neg (by simp [idle]))⟩
    next running => exact stepped.trans (if_pos (by simpa using running))

/-- Settles O17: START tests RUN, and opens a run from idle only. -/
theorem startOpensRun : Obligations.StartOpensRun := by
  refine ⟨decodeCommand_of_start, fun s => ?_⟩
  split
  next idle => exact exec_start_idle idle
  next running => exact exec_start_run (by simpa using running)

/-- Settles O18: END tests RUN, and closes a run without touching the histories. -/
theorem endClosesRun : Obligations.EndClosesRun := by
  refine ⟨decodeCommand_of_end, fun s => ?_⟩
  split
  next run => exact exec_end_run run
  next idle => exact exec_end_idle (by simpa using idle)

end
